-- ==== Sys2Proof/Word.lean ====
section
/-! DEFINITION. The plain value types of TinyRemoteRF-core: bytes, the 24-bit frame word, durations, channel
readings, carrier levels and segments, the codes of the state registers, and the decoder's results. Durations and
counters are natural numbers (R16, R117); only bytes, the frame word and the selector words are bit vectors. -/

namespace Sys2Proof

/-- An 8-bit byte: an address, a command or an inverse command (R117). -/
abbrev Byte := BitVec 8

/-- The 24-bit frame word or accumulator (R39, R46, R86). -/
abbrev Frame24 := BitVec 24

/-- One answer of measurePulse: `some d` is a measured high interval of d microseconds, `none` is "absence of an
edge within the timeout" (R19, R234). -/
abbrev Reading := Option Nat

/-- The two carrier levels (R19). -/
inductive Level where
  | on
  | off
deriving DecidableEq, Repr

/-- One output segment of the encoder: a level held for a number of microseconds (R17, R21). -/
structure Segment where
  level : Level
  dur : Nat
deriving DecidableEq, Repr

/-- The values of `E.st` (R33). -/
inductive EncSt where
  | idle
  | pre
  | start
  | data
  | stop
deriving DecidableEq, Repr

/-- The values of `E.ph` (R34). -/
inductive Phase where
  | burst
  | space
deriving DecidableEq, Repr

/-- The values of `D.st` (R42). -/
inductive DecSt where
  | idle
  | await
  | synced
  | read
  | done
deriving DecidableEq, Repr

/-- The values of `D.res` (R47, R93). -/
inductive Result where
  | empty
  | frame (address command inverseCommand : Byte) (valid : Bool)
  | incomplete
  | noStart
deriving DecidableEq, Repr

/-- The three fault names of the fault record (R220). -/
inductive FaultName where
  | illFormedConfig
  | overlappingTransmit
  | overlappingReceive
deriving DecidableEq, Repr

/-- AwaitStart classes of a reading (R91). -/
inductive AwClass where
  | inBand
  | timeout
  | outOfBand
deriving DecidableEq, Repr

/-- ReadingBits classes of a reading (R92). -/
inductive RbClass where
  | timeout
  | abortShort
  | abortLong
  | one
  | zero
deriving DecidableEq, Repr

/-- The five wire symbols (R80). -/
inductive Sym where
  | zero
  | one
  | start
  | pre0
  | stop
deriving DecidableEq, Repr

end Sys2Proof
end

