-- ==== Sys2Proof/Config.lean ====
section
/-! DEFINITION. What a build of TinyRemoteRF-core fixes: the configuration registers of R31 and R32 as plain data
(they stand in State, and no step writes them), the moves the environment can make, and the values the spec leaves
open as constants without a body. -/

namespace Sys2Proof

/-- `REGISTRY`, the map from KEY1..KEY5 to command bytes (R14, R31). -/
structure Registry where
  key1 : Byte
  key2 : Byte
  key3 : Byte
  key4 : Byte
  key5 : Byte
deriving DecidableEq, Repr

/-- The encoder's configuration registers (R31). Durations are in microseconds. -/
structure EncConfig where
  /-- `ERR_ENC` (R6). -/
  err : Nat
  /-- `P`, the number of preamble zero-bits (R7). -/
  p : Nat
  /-- `S_ENC`, the number of start pulses of a repetition (R8). -/
  s : Nat
  /-- `R`, the number of repetitions (R9). -/
  r : Nat
  /-- `TEC`, taken off each preamble space (R10). -/
  tec : Nat
  /-- `ADDR` (R14). -/
  addr : Byte
  /-- `REGISTRY` (R14). -/
  registry : Registry
deriving DecidableEq, Repr

/-- `START_TRIES`: a natural number or infinity (R12). -/
inductive Budget where
  | reads (n : Nat)
  | unlimited
deriving DecidableEq, Repr

/-- The decoder's configuration registers (R32). Durations are in microseconds. -/
structure DecConfig where
  /-- `ERR_DEC` (R6). -/
  err : Nat
  /-- `S_DEC` (R8). -/
  s : Nat
  /-- `TO_START` (R11). -/
  toStart : Nat
  /-- `GUARD` (R11). -/
  guardDelay : Nat
  /-- `TO_BIT` (R11). -/
  toBit : Nat
  /-- `START_TRIES` (R12). -/
  startTries : Budget
  /-- `AWAIT_TIMEOUT_ENDS_ATTEMPT` (R13). -/
  awaitTimeoutEnds : Bool
deriving DecidableEq, Repr

/-- All configuration registers of one run: one encoder instance and one decoder instance (R253). -/
structure Build where
  enc : EncConfig
  dec : DecConfig
deriving DecidableEq, Repr

/-- What the `measurePulse` timeout bounds: `TIMEOUT_BASIS` (R234). -/
inductive TimeoutBasis where
  | edge
  | whole
deriving DecidableEq, Repr, Inhabited

/-- What comes to the block from outside it: the host's requests and the reset event (R97, R131, R171, R250). -/
inductive Request where
  | transmit (c : Byte)
  | txkey (k : Nat)
  | receive
  | reset
deriving DecidableEq, Repr, Inhabited

/-- Who moves next (R225, R240): the host with a request, the encoder, or the decoder. A unit that moves takes its
one enabled step, or none where it has none. -/
inductive Move where
  | host (q : Request)
  | encoder
  | decoder
deriving DecidableEq, Repr, Inhabited

/-- One round of moves that State does not list (R241): any moves, a move of the encoder, any moves, a move of the
decoder. A sequence of moves in which both units move again and again is a sequence of such rounds, and the other way
round. -/
structure Round where
  beforeEncoder : List Move
  beforeDecoder : List Move
deriving DecidableEq, Repr, Inhabited

namespace Config

/-- FREE VALUE (R74): the channel's answer to the n-th read for which State lists no answer. Nothing constrains
it. Assumption log 4. -/
opaque channelAnswer : Nat → Reading

/-- FREE VALUE (R225, R240, R241): the n-th round of moves after those State lists. Nothing constrains the moves in
it beyond the two that make it a round: the order is free, the host owes no move, and each unit moves again.
Assumption log 3. -/
opaque environment : Nat → Round

/-- `TIMEOUT_BASIS`, OPEN (R234, D23): no step reads it; Safety.lean's timing conditions take a basis.
Assumption log 17. -/
opaque timeoutBasis : TimeoutBasis

/-- `DUR_MAX`, OPEN and unused by every rule (R16, D2). Assumption log 17. -/
opaque durMax : Nat

/-- FREE VALUE: the hold of a preamble space where `2*ERR_ENC - TEC` is below zero. R113 and R117 rule it out; no
reachable state asks for it. Assumption log 18. -/
opaque holdBelowZero : Nat → Nat → Nat

/-- FREE VALUE: the bit at a transmission position past 23, which no rule gives (R65); no reachable state asks for it.
Assumption log 18. -/
opaque bitPastFrame : Frame24 → Nat → Bool

end Config

end Sys2Proof
end

