-- ==== Sys2Proof/Machine/Protocol.lean ====
section
/-! DEFINITION. The protocol definition of 41_protocol.md and 30_encoding.md: pulse widths, decoder thresholds, the
well-formed configurations, the frame word, the segments of the symbols and the classes of a reading. All of it is a
function of the configuration alone (R115). -/

namespace Sys2Proof.Machine

/-- `bit0Width = 2*E` (R110). -/
def bit0Width (e : Nat) : Nat := 2 * e
/-- `bit1Width = 4*E` (R110). -/
def bit1Width (e : Nat) : Nat := 4 * e
/-- `startWidth = 6*E` (R110). -/
def startWidth (e : Nat) : Nat := 6 * e
/-- `minStopGap = 8*E` (R110). -/
def minStopGap (e : Nat) : Nat := 8 * e

/-- `START_LO = 5*E`, inclusive (R111). -/
def startLo (e : Nat) : Nat := 5 * e
/-- `START_HI = 7*E`, inclusive (R111). -/
def startHi (e : Nat) : Nat := 7 * e
/-- `BIT_MIN = 1*E`: a shorter reading aborts (R111). -/
def bitMin (e : Nat) : Nat := 1 * e
/-- `BIT_SPLIT = 3*E`: a longer reading is a 1 (R111). -/
def bitSplit (e : Nat) : Nat := 3 * e
/-- `BIT_MAX = 5*E`: a longer reading aborts (R111). -/
def bitMax (e : Nat) : Nat := 5 * e

/-- `width(b)`: the burst and the space of a frame bit (R87). -/
def bitWidth (e : Nat) : Bool → Nat
  | true => bit1Width e
  | false => bit0Width e

/-- The hold asked for a preamble space, `2*E - TEC` (R84). In a well-formed configuration TEC is below `2*E` (R117);
where it is above, the hold is a free value (assumption log 18). -/
def preSpaceWidth (k : EncConfig) : Nat :=
  if k.tec ≤ bit0Width k.err then bit0Width k.err - k.tec else Config.holdBelowZero k.err k.tec

/-- The encoder's half of R113. `P >= 0` and the ranges of ADDR and REGISTRY hold by their types. -/
def wellFormedEnc (k : EncConfig) : Bool :=
  decide (1 ≤ k.err) && decide (1 ≤ k.s) && decide (1 ≤ k.r) && decide (k.tec + 1 ≤ 2 * k.err)

/-- The decoder's half of R113. `GUARD >= 0` and the range of START_TRIES hold by their types. -/
def wellFormedDec (k : DecConfig) : Bool :=
  decide (1 ≤ k.err) && decide (1 ≤ k.s) && decide (1 ≤ k.toStart) && decide (1 ≤ k.toBit)

/-- The bitwise complement of a byte, `~c = 255 - c` (R18, R116). -/
def complement (c : Byte) : Byte := ~~~c

/-- A frame word from its three fields: address at 23:16, command at 15:8, inverse command at 7:0 (R65, R86). -/
def packFrame (a c i : Byte) : Frame24 := a ++ c ++ i

/-- `fw = ADDR ++ c ++ ~c` (R86). -/
def frameWordOf (addr c : Byte) : Frame24 := packFrame addr c (complement c)

/-- Bits 23:16 of a frame word (R86). -/
def addressField (v : Frame24) : Byte := v.extractLsb' 16 8
/-- Bits 15:8 of a frame word (R86). -/
def commandField (v : Frame24) : Byte := v.extractLsb' 8 8
/-- Bits 7:0 of a frame word (R86). -/
def inverseField (v : Frame24) : Byte := v.extractLsb' 0 8

/-- A pulse: a burst and then a space (R80). -/
def pulse (burst space : Nat) : List Segment := [⟨.on, burst⟩, ⟨.off, space⟩]

/-- The segments of a symbol, the table of R80. -/
def symSegs (k : EncConfig) : Sym → List Segment
  | .zero => pulse (bit0Width k.err) (bit0Width k.err)
  | .one => pulse (bit1Width k.err) (bit1Width k.err)
  | .start => pulse (startWidth k.err) (startWidth k.err)
  | .pre0 => pulse (bit0Width k.err) (preSpaceWidth k)
  | .stop => [⟨.off, minStopGap k.err⟩]

/-- The symbol of a frame bit (R87). -/
def bitSym : Bool → Sym
  | true => .one
  | false => .zero

/-- The AwaitStart class of a reading (R91). -/
def classifyAwait (e : Nat) : Reading → AwClass
  | none => .timeout
  | some d => if startLo e ≤ d ∧ d ≤ startHi e then .inBand else .outOfBand

/-- The ReadingBits class of a reading: the tests of R92 in their order. -/
def classifyRead (e : Nat) : Reading → RbClass
  | none => .timeout
  | some d =>
    if d < bitMin e then .abortShort
    else if d > bitMax e then .abortLong
    else if d > bitSplit e then .one
    else .zero

/-- The code of a fault name (R220, D38). -/
def faultCode : FaultName → Nat
  | .illFormedConfig => 1
  | .overlappingTransmit => 2
  | .overlappingReceive => 3

end Sys2Proof.Machine
end

