-- ==== Sys2Proof/Syntax.lean ====
section
/-! DEFINITION. The syntax: one constructor of Instr for each row of spec/opcode_table.json, and the codes that stand
for them. The block has no instruction words (30_encoding.md): an operation is told by the selector word of its unit
together with a guard (R95, R96), a symbol by its segments (R80), a frame word by its 24 bits (R86), a class by a
reading (R91, R92), a result by its kind (R93). A Code is one of these with its format. -/

namespace Sys2Proof

/-- Which unit a frame word stands in: the encoder forms it, the decoder completes it (R86). -/
inductive Side where
  | encoder
  | decoder
deriving DecidableEq, Repr

/-- The column "format" of the opcode table. -/
inductive Format where
  | encSel
  | decSel
  | symbol
  | frame24
  | classAwait
  | classRead
  | result
  | pseudo
  | event
deriving DecidableEq, Repr

/-- The operations, symbols, classes, results and events of the opcode table, one constructor a row.

The rows of formats ENC_SEL, DEC_SEL, PSEUDO and EVENT are operations. A row of another format is a label of the
model's steps (assumption log 6 to 9): a symbol stands for the two segment steps that emit it, a class or result for
the decoder step that reads or reports it, a frame word for the step that forms or completes it. -/
inductive Instr where
  /-- `TRANSMIT c` (R131, R132). -/
  | transmit (c : Byte)
  /-- `E.PRE_BURST` (R133). -/
  | ePreBurst
  /-- `E.PRE_SPACE` (R134). -/
  | ePreSpace
  /-- `E.START_BURST` (R135). -/
  | eStartBurst
  /-- `E.START_SPACE` (R136). -/
  | eStartSpace
  /-- `E.DATA_BURST` (R137). -/
  | eDataBurst
  /-- `E.DATA_SPACE` (R138). -/
  | eDataSpace
  /-- `E.STOP` (R139). -/
  | eStop
  /-- `RECEIVE` (R171, R172). -/
  | receive
  /-- `D.NOSTART` (R173). -/
  | dNostart
  /-- `D.AWAIT_READ` (R174); its operand, the answer r, comes from the channel when it runs. -/
  | dAwaitRead
  /-- `D.GUARD` (R175). -/
  | dGuard
  /-- `D.READ_BIT` (R176); its operand, the answer r, comes from the channel when it runs. -/
  | dReadBit
  /-- `SYM_ZERO` (R81): a frame bit of value 0 is emitted. -/
  | symZero
  /-- `SYM_ONE` (R82): a frame bit of value 1 is emitted. -/
  | symOne
  /-- `SYM_START` (R83): a start pulse is emitted. -/
  | symStart
  /-- `SYM_PRE0` (R84): a preamble zero-bit is emitted. -/
  | symPre0
  /-- `SYM_STOP` (R85): the stop gap is emitted. -/
  | symStop
  /-- `FRAME_WORD` (R86): the word `a ++ c ++ i` is formed by the encoder or completed by the decoder. -/
  | frameWord (side : Side) (a c i : Byte)
  /-- `AW_IN` (R91): AwaitStart reads `some d` in the start band. -/
  | awIn (d : Nat)
  /-- `AW_TIMEOUT` (R91): AwaitStart reads `none`. -/
  | awTimeout
  /-- `AW_OUT` (R91): AwaitStart reads `some d` outside the start band. -/
  | awOut (d : Nat)
  /-- `RB_TIMEOUT` (R92): ReadingBits reads `none`. -/
  | rbTimeout
  /-- `RB_ABORT_SHORT` (R92): ReadingBits reads `some d` below E. -/
  | rbAbortShort (d : Nat)
  /-- `RB_ABORT_LONG` (R92): ReadingBits reads `some d` above 5*E. -/
  | rbAbortLong (d : Nat)
  /-- `RB_ONE` (R92): ReadingBits reads a 1. -/
  | rbOne (d : Nat)
  /-- `RB_ZERO` (R92): ReadingBits reads a 0. -/
  | rbZero (d : Nat)
  /-- `Frame{valid=true}` (R93): the decoder reports the frame a, c, i with i == ~c. -/
  | frameValidTrue (a c i : Byte)
  /-- `Frame{valid=false}` (R93): the decoder reports the frame a, c, i with i != ~c. -/
  | frameValidFalse (a c i : Byte)
  /-- `Incomplete` (R93): the decoder reports an abort of ReadingBits. -/
  | incomplete
  /-- `NoStart` (R93): the decoder reports that no start sequence was found. -/
  | noStart
  /-- `EMPTY` (R93): the result register is emptied, as a new attempt does. -/
  | empty
  /-- `TXKEY k` (R97), k standing for KEYk. -/
  | txkey (k : Nat)
  /-- `RESET` (R250). -/
  | reset
deriving DecidableEq, Repr

/-- A code of the block, with its format. -/
inductive Code where
  /-- ENC_SEL: `E.st ++ E.ph` and the host's request transmit(c), if there is one (R95). -/
  | encSel (sel : BitVec 4) (request : Option Byte)
  /-- DEC_SEL: `D.st`, whether the host requests receiveFrame(), and how `D.tries` compares with `START_TRIES`
  (R96). -/
  | decSel (sel : BitVec 3) (request : Bool) (tries : Ordering)
  /-- SYMBOL: the state of the telegram the symbol is emitted in, and its segments (R80, R89, R99). -/
  | symbol (position : EncSt) (segs : List Segment)
  /-- FRAME24: the bits of a frame word (R86). -/
  | frame24 (side : Side) (w : Frame24)
  /-- CLASS_AWAIT: a reading taken in AwaitStart (R91). -/
  | classAwait (r : Reading)
  /-- CLASS_READ: a reading taken in ReadingBits (R92). -/
  | classRead (r : Reading)
  /-- RESULT: a result value (R93). -/
  | result (x : Result)
  /-- PSEUDO: TXKEY and the number of its key (R97). -/
  | pseudo (k : Nat)
  /-- EVENT: the reset event (R250). -/
  | event
deriving DecidableEq, Repr

/-- One entry of the list of what happens next: a move of an agent, whose code the fetch makes from the registers
(R95, R96), or a code given as it stands (assumption log 3). -/
inductive Event where
  | move (m : Move)
  | item (c : Code)
deriving DecidableEq, Repr

/-- The format of a code. -/
def Code.format : Code → Format
  | .encSel _ _ => .encSel
  | .decSel _ _ _ => .decSel
  | .symbol _ _ => .symbol
  | .frame24 _ _ => .frame24
  | .classAwait _ => .classAwait
  | .classRead _ => .classRead
  | .result _ => .result
  | .pseudo _ => .pseudo
  | .event => .event

/-- The format the opcode table gives the row of an instruction. -/
def Instr.format : Instr → Format
  | .transmit _ => .encSel
  | .ePreBurst => .encSel
  | .ePreSpace => .encSel
  | .eStartBurst => .encSel
  | .eStartSpace => .encSel
  | .eDataBurst => .encSel
  | .eDataSpace => .encSel
  | .eStop => .encSel
  | .receive => .decSel
  | .dNostart => .decSel
  | .dAwaitRead => .decSel
  | .dGuard => .decSel
  | .dReadBit => .decSel
  | .symZero => .symbol
  | .symOne => .symbol
  | .symStart => .symbol
  | .symPre0 => .symbol
  | .symStop => .symbol
  | .frameWord _ _ _ _ => .frame24
  | .awIn _ => .classAwait
  | .awTimeout => .classAwait
  | .awOut _ => .classAwait
  | .rbTimeout => .classRead
  | .rbAbortShort _ => .classRead
  | .rbAbortLong _ => .classRead
  | .rbOne _ => .classRead
  | .rbZero _ => .classRead
  | .frameValidTrue _ _ _ => .result
  | .frameValidFalse _ _ _ => .result
  | .incomplete => .result
  | .noStart => .result
  | .empty => .result
  | .txkey _ => .pseudo
  | .reset => .event

end Sys2Proof
end

