-- ==== Sys2Proof/WellFormed.lean ====
section
/-! DEFINITION. Which instructions are well formed for a build: the operand of each row lies where its encoding puts
it. Operands that their type already bounds (a command byte) have no check. -/

namespace Sys2Proof

open Sys2Proof.Machine

/-- KEY1..KEY5 (R97). -/
def keyInRange (k : Nat) : Bool := decide (1 ≤ k) && decide (k ≤ 5)

/-- A frame word the encoder forms is `ADDR ++ c ++ ~c` (R86). -/
def formedByEncoder (b : Build) (a c i : Byte) : Bool :=
  decide (a = b.enc.addr) && decide (i = complement c)

/-- Well-formedness of an instruction under a build. A symbol has its widths only in a well-formed encoder
configuration (R112, R113); a class holds the readings of its band (R91, R92); a frame result's valid flag is
`i == ~c` (R93). -/
def wellFormed (b : Build) : Instr → Bool
  | .transmit _ => true
  | .ePreBurst => true
  | .ePreSpace => true
  | .eStartBurst => true
  | .eStartSpace => true
  | .eDataBurst => true
  | .eDataSpace => true
  | .eStop => true
  | .receive => true
  | .dNostart => true
  | .dAwaitRead => true
  | .dGuard => true
  | .dReadBit => true
  | .symZero => wellFormedEnc b.enc
  | .symOne => wellFormedEnc b.enc
  | .symStart => wellFormedEnc b.enc
  | .symPre0 => wellFormedEnc b.enc
  | .symStop => wellFormedEnc b.enc
  | .frameWord .encoder a c i => formedByEncoder b a c i
  | .frameWord .decoder _ _ _ => true
  | .awIn d => decide (classifyAwait b.dec.err (some d) = .inBand)
  | .awTimeout => true
  | .awOut d => decide (classifyAwait b.dec.err (some d) = .outOfBand)
  | .rbTimeout => true
  | .rbAbortShort d => decide (classifyRead b.dec.err (some d) = .abortShort)
  | .rbAbortLong d => decide (classifyRead b.dec.err (some d) = .abortLong)
  | .rbOne d => decide (classifyRead b.dec.err (some d) = .one)
  | .rbZero d => decide (classifyRead b.dec.err (some d) = .zero)
  | .frameValidTrue _ c i => decide (i = complement c)
  | .frameValidFalse _ c i => decide (i ≠ complement c)
  | .incomplete => true
  | .noStart => true
  | .empty => true
  | .txkey k => keyInRange k
  | .reset => true

end Sys2Proof
end

