-- ==== Sys2Proof/Decode.lean ====
section
/-! DEFINITION. The decoder of codes, total, rejecting by name, and after it the encoder. The selector words are those
of R95 and R96 with the state codes of D37; symbols, classes and results are decoded by R80, R91, R92 and R93. -/

namespace Sys2Proof

open Sys2Proof.Machine

/-- Why a code is no instruction. -/
inductive DecodeError where
  /-- The selected unit is idle and the host asks nothing of it: it has no step (R130, R170, R243). Safe. -/
  | noStep
  /-- A state code 101, 110 or 111 (R95, R96, R98): the spec calls it unused and gives it no rule. Safe. -/
  | unusedState
  /-- `D.tries > START_TRIES`: neither guard of R96 holds, so no rule selects a step; no reachable state. Safe. -/
  | noGuard
  /-- The segments are no symbol of that place of a telegram (R80, R89). Safe. -/
  | noSymbol
  /-- A frame word at the encoder that is not `ADDR ++ c ++ ~c` (R86). Safe. -/
  | noFrameWord
  /-- A frame result whose valid flag is not `i == ~c` (R93). Safe. -/
  | noResult
  /-- TXKEY with a key outside KEY1..KEY5 (R97, D36). Safe: the spec refuses it. -/
  | unknownKey
deriving DecidableEq, Repr

/-- What the decoder answers. -/
inductive Decoded where
  | ok (i : Instr)
  | rejected (e : DecodeError)
deriving DecidableEq, Repr

/-- The codes of `E.st` (R95). -/
def encStCode : EncSt → BitVec 3
  | .idle => 0b000#3
  | .pre => 0b001#3
  | .start => 0b010#3
  | .data => 0b011#3
  | .stop => 0b100#3

/-- The codes of `E.ph` (R95). -/
def phaseCode : Phase → BitVec 1
  | .burst => 0b0#1
  | .space => 0b1#1

/-- The codes of `D.st` (R96). -/
def decStCode : DecSt → BitVec 3
  | .idle => 0b000#3
  | .await => 0b001#3
  | .synced => 0b010#3
  | .read => 0b011#3
  | .done => 0b100#3

/-- The state a code stands for; none for the unused codes (R95, R98). -/
def encStOfCode (w : BitVec 3) : Option EncSt :=
  match w.toNat with
  | 0 => some .idle
  | 1 => some .pre
  | 2 => some .start
  | 3 => some .data
  | 4 => some .stop
  | _ => none

/-- The state a code stands for; none for the unused codes (R96, R98). -/
def decStOfCode (w : BitVec 3) : Option DecSt :=
  match w.toNat with
  | 0 => some .idle
  | 1 => some .await
  | 2 => some .synced
  | 3 => some .read
  | 4 => some .done
  | _ => none

/-- The phase a code stands for (R95). -/
def phaseOfCode (w : BitVec 1) : Phase := if w = 0b1#1 then .space else .burst

/-- The encoder's selector word, `E.st ++ E.ph` (R95). -/
def encSelector (st : EncSt) (ph : Phase) : BitVec 4 := encStCode st ++ phaseCode ph

/-- ENC_SEL (R95). A request selects TRANSMIT in every state: in a busy one it is the TRANSMIT of R132. -/
def decodeEncSel (sel : BitVec 4) (request : Option Byte) : Decoded :=
  match encStOfCode (sel.extractLsb' 1 3) with
  | none => .rejected .unusedState
  | some st =>
    match request with
    | some c => .ok (.transmit c)
    | none =>
      match st, phaseOfCode (sel.extractLsb' 0 1) with
      | .idle, _ => .rejected .noStep
      | .pre, .burst => .ok .ePreBurst
      | .pre, .space => .ok .ePreSpace
      | .start, .burst => .ok .eStartBurst
      | .start, .space => .ok .eStartSpace
      | .data, .burst => .ok .eDataBurst
      | .data, .space => .ok .eDataSpace
      | .stop, _ => .ok .eStop

/-- DEC_SEL (R96). A request selects RECEIVE in every state: in a busy one it is the RECEIVE of R172. -/
def decodeDecSel (sel : BitVec 3) (request : Bool) (tries : Ordering) : Decoded :=
  match decStOfCode sel with
  | none => .rejected .unusedState
  | some st =>
    if request then .ok .receive
    else
      match st, tries with
      | .idle, _ => .rejected .noStep
      | .await, .eq => .ok .dNostart
      | .await, .lt => .ok .dAwaitRead
      | .await, .gt => .rejected .noGuard
      | .synced, _ => .ok .dGuard
      | .read, _ => .ok .dReadBit
      | .done, _ => .rejected .noStep

/-- The row of a symbol. -/
def symInstr : Sym → Instr
  | .zero => .symZero
  | .one => .symOne
  | .start => .symStart
  | .pre0 => .symPre0
  | .stop => .symStop

/-- The symbols that may stand in a state of the telegram (R80, R89). -/
def symsOf : EncSt → List Sym
  | .idle => []
  | .pre => [.pre0]
  | .start => [.start]
  | .data => [.zero, .one]
  | .stop => [.stop]

/-- The state of the telegram a symbol is emitted in (R80, R89). -/
def symPosition : Sym → EncSt
  | .zero => .data
  | .one => .data
  | .start => .start
  | .pre0 => .pre
  | .stop => .stop

/-- SYMBOL (R80): the symbol of that place that has these segments. The place tells SYM_PRE0 from SYM_ZERO when TEC
is 0 (R84, R99). -/
def decodeSymbol (k : EncConfig) (position : EncSt) (segs : List Segment) : Decoded :=
  match (symsOf position).find? (fun y => decide (symSegs k y = segs)) with
  | some y => .ok (symInstr y)
  | none => .rejected .noSymbol

/-- FRAME24 (R86): the three fields of the word. -/
def decodeFrame24 (b : Build) (side : Side) (w : Frame24) : Decoded :=
  match side with
  | .decoder => .ok (.frameWord .decoder (addressField w) (commandField w) (inverseField w))
  | .encoder =>
    if formedByEncoder b (addressField w) (commandField w) (inverseField w) then
      .ok (.frameWord .encoder (addressField w) (commandField w) (inverseField w))
    else .rejected .noFrameWord

/-- CLASS_AWAIT (R91). -/
def decodeAwait (e : Nat) (r : Reading) : Instr :=
  match r, classifyAwait e r with
  | some d, .inBand => .awIn d
  | some d, _ => .awOut d
  | none, _ => .awTimeout

/-- CLASS_READ (R92). -/
def decodeRead (e : Nat) (r : Reading) : Instr :=
  match r, classifyRead e r with
  | none, _ => .rbTimeout
  | some d, .abortShort => .rbAbortShort d
  | some d, .abortLong => .rbAbortLong d
  | some d, .one => .rbOne d
  | some d, _ => .rbZero d

/-- RESULT (R93). -/
def decodeResult : Result → Decoded
  | .empty => .ok .empty
  | .incomplete => .ok .incomplete
  | .noStart => .ok .noStart
  | .frame a c i valid =>
    if valid = decide (i = complement c) then
      .ok (if valid then .frameValidTrue a c i else .frameValidFalse a c i)
    else .rejected .noResult

/-- The decoder, total on every code. -/
def decode (b : Build) : Code → Decoded
  | .encSel sel request => decodeEncSel sel request
  | .decSel sel request tries => decodeDecSel sel request tries
  | .symbol position segs => decodeSymbol b.enc position segs
  | .frame24 side w => decodeFrame24 b side w
  | .classAwait r => .ok (decodeAwait b.dec.err r)
  | .classRead r => .ok (decodeRead b.dec.err r)
  | .result x => decodeResult x
  | .pseudo k => if keyInRange k then .ok (.txkey k) else .rejected .unknownKey
  | .event => .ok .reset

/-- The code of a symbol (R80). -/
def encodeSymbol (k : EncConfig) (y : Sym) : Code := .symbol (symPosition y) (symSegs k y)

/-- The encoder: the code of an instruction, from the same tables. TRANSMIT and RECEIVE are encoded with the selector
of an idle unit (R95, R96). -/
def encode (b : Build) : Instr → Code
  | .transmit c => .encSel 0b0000#4 (some c)
  | .ePreBurst => .encSel 0b0010#4 none
  | .ePreSpace => .encSel 0b0011#4 none
  | .eStartBurst => .encSel 0b0100#4 none
  | .eStartSpace => .encSel 0b0101#4 none
  | .eDataBurst => .encSel 0b0110#4 none
  | .eDataSpace => .encSel 0b0111#4 none
  | .eStop => .encSel 0b1000#4 none
  | .receive => .decSel 0b000#3 true .lt
  | .dNostart => .decSel 0b001#3 false .eq
  | .dAwaitRead => .decSel 0b001#3 false .lt
  | .dGuard => .decSel 0b010#3 false .lt
  | .dReadBit => .decSel 0b011#3 false .lt
  | .symZero => encodeSymbol b.enc .zero
  | .symOne => encodeSymbol b.enc .one
  | .symStart => encodeSymbol b.enc .start
  | .symPre0 => encodeSymbol b.enc .pre0
  | .symStop => encodeSymbol b.enc .stop
  | .frameWord side a c i => .frame24 side (packFrame a c i)
  | .awIn d => .classAwait (some d)
  | .awTimeout => .classAwait none
  | .awOut d => .classAwait (some d)
  | .rbTimeout => .classRead none
  | .rbAbortShort d => .classRead (some d)
  | .rbAbortLong d => .classRead (some d)
  | .rbOne d => .classRead (some d)
  | .rbZero d => .classRead (some d)
  | .frameValidTrue a c i => .result (.frame a c i true)
  | .frameValidFalse a c i => .result (.frame a c i false)
  | .incomplete => .result .incomplete
  | .noStart => .result .noStart
  | .empty => .result .empty
  | .txkey k => .pseudo k
  | .reset => .event

/-- The code that nbits bits of an opcode-table word stand for. Up to 3 bits are a DEC_SEL word, up to 8 an ENC_SEL
word, 24 a frame word at the decoder. In whole bytes a DEC_SEL word is the same number as an ENC_SEL word of another
row (RECEIVE and TRANSMIT are both 0): 8 bits are read as ENC_SEL (assumption log 10). A word of state IDLE comes
with the request that R95 or R96 asks for, its operand c zero. -/
def tableCode (nbits w : Nat) : Option Code :=
  if nbits ≤ 3 then
    if w < 8 then
      some (.decSel (BitVec.ofNat 3 w) (w == 0 || w == 4) .lt)
    else none
  else if nbits ≤ 8 then
    if w < 16 then
      some (.encSel (BitVec.ofNat 4 w) (if w < 2 then some 0#8 else none))
    else none
  else if nbits = 24 then
    if w < 2 ^ 24 then some (.frame24 .decoder (BitVec.ofNat 24 w)) else none
  else none

/-- The decoder's answer to a code that needs no configuration. -/
def decodeTableCode : Code → Decoded
  | .encSel sel request => decodeEncSel sel request
  | .decSel sel request tries => decodeDecSel sel request tries
  | .frame24 _ w => .ok (.frameWord .decoder (addressField w) (commandField w) (inverseField w))
  | _ => .rejected .noSymbol

/-- The instruction the decoder reads from a word of the opcode table. -/
def decodeTableWord (nbits w : Nat) : Option Instr :=
  match tableCode nbits w with
  | none => none
  | some c =>
    match decodeTableCode c with
    | .ok i => some i
    | .rejected _ => none

end Sys2Proof
end

