-- ==== Sys2Proof/Machine/State.lean ====
section
/-! DEFINITION. The state of the block: the configuration registers (R31, R32), the encoder registers (R33 to R41),
the decoder registers (R42 to R48), the fault record (R50), and the model's own record of what crosses the block's
interface: what is still to come from outside and what the block has done (R17, R19). Reset values: R250. -/

namespace Sys2Proof.Machine

/-- The encoder registers (R33 to R40). `E.busy` is derived (R41): Flags.lean. -/
structure EncState where
  /-- `E.st` (R33). -/
  st : EncSt
  /-- `E.ph` (R34). -/
  ph : Phase
  /-- `E.pc`, the preamble counter (R35). -/
  pc : Nat
  /-- `E.sc`, the start counter (R36). -/
  sc : Nat
  /-- `E.rc`, the repetition counter (R37). -/
  rc : Nat
  /-- `E.bi`, the frame bit index (R38). -/
  bi : Nat
  /-- `E.fw`, the frame word (R39). -/
  fw : Frame24
  /-- `E.carrier`, the level last passed to setCarrier (R40). -/
  carrier : Level
deriving DecidableEq, Repr

/-- The decoder registers (R42 to R47). `D.busy` is derived (R48): Flags.lean. -/
structure DecState where
  /-- `D.st` (R42). -/
  st : DecSt
  /-- `D.sc`, the consecutive start-pulse counter (R43). -/
  sc : Nat
  /-- `D.tries`, the AwaitStart read counter (R44). -/
  tries : Nat
  /-- `D.n`, the collected-bit counter (R45). -/
  n : Nat
  /-- `D.acc`, the bit accumulator (R46). -/
  acc : Frame24
  /-- `D.res`, the result register (R47). -/
  res : Result
deriving DecidableEq, Repr

/-- The fault record: for each of the three names of R220, whether it is in the set (R50). -/
structure FaultRecord where
  illFormedConfig : Bool
  overlappingTransmit : Bool
  overlappingReceive : Bool
deriving DecidableEq, Repr

/-- The empty fault record. -/
def FaultRecord.none : FaultRecord := ⟨false, false, false⟩

/-- One action of the encoder on its interface (R17, R19). -/
inductive EncAction where
  /-- `transmit(c)` is accepted (R131). -/
  | transmit (c : Byte)
  /-- `emit(level, d)`: setCarrier, then a hold of d microseconds (R19, R232). -/
  | emit (seg : Segment)
  /-- setCarrier with no hold, which only RESET does (R250). -/
  | setCarrier (on : Bool)
deriving DecidableEq, Repr

/-- One action of the decoder on its interface (R17, R19). -/
inductive DecAction where
  /-- `receiveFrame()` is accepted (R171). -/
  | receive
  /-- `measure(t)` and the answer it got (R234). -/
  | measure (timeout : Nat) (answer : Reading)
  /-- `wait(d)` (R235). -/
  | wait (d : Nat)
  /-- `report(x)` (R19). -/
  | report (x : Result)
deriving DecidableEq, Repr

/-- The whole state. The block has no memory and no address space (R60). -/
structure State where
  /-- The configuration registers (R31, R32). -/
  cfg : Build
  /-- The encoder registers. -/
  enc : EncState
  /-- The decoder registers. -/
  dec : DecState
  /-- The fault record (R50). -/
  faults : FaultRecord
  /-- MODEL'S OWN: what happens next, the next first (assumption log 3). -/
  events : List Event
  /-- MODEL'S OWN: the channel's answers to the reads to come, the next first (R74; assumption log 4). -/
  answers : List Reading
  /-- MODEL'S OWN: how many free rounds of moves have been begun, the argument of Config.environment. -/
  freeRounds : Nat
  /-- MODEL'S OWN: how many free answers have been taken, the argument of Config.channelAnswer. -/
  freeReads : Nat
  /-- MODEL'S OWN: the encoder's actions so far, the first first (assumption log 2). -/
  encLog : List EncAction
  /-- MODEL'S OWN: the decoder's actions so far, the first first (assumption log 2). -/
  decLog : List DecAction
deriving DecidableEq, Repr

/-- What stops the machine. No step of a state of this model raises a fault: "Nothing in the core is fatal". The three
faults of R220 are no such stop: they are entries of the fault record, and the block goes on. -/
inductive Fault where
  /-- Raised by step when the next event is a selector code whose state code is 101, 110 or 111: the spec calls a
  block in such a state stuck (R98). No register of this model can hold such a code, so only a code given as it stands
  raises it. Safe. -/
  | stuckState
deriving DecidableEq, Repr

/-- What the machine refuses. -/
inductive Refusal where
  /-- Raised by exec's arm of an instruction that has no meaning. Safe. -/
  | notModelled (mnemonic : String)
  /-- Raised by a meaning when the registers do not select the operation, or the operation would not carry the label:
  the spec enables no such step there (R95, R96, R130, R170). Safe. -/
  | notSelected
  /-- Raised by the meaning of TXKEY when the key is none of KEY1..KEY5: "`TXKEY` with any other key is refused"
  (R97, D36). Safe. -/
  | unknownKey (k : Nat)
  /-- Raised by step when the next code is no instruction (Decode.lean says which). Safe. -/
  | undecodable (e : DecodeError)
deriving DecidableEq, Repr

/-- The encoder registers after RESET (R33 to R40, R250). -/
def EncState.reset : EncState :=
  { st := .idle, ph := .burst, pc := 0, sc := 0, rc := 0, bi := 0, fw := 0#24, carrier := .off }

/-- The decoder registers after RESET (R42 to R47, R250). -/
def DecState.reset : DecState :=
  { st := .idle, sc := 0, tries := 0, n := 0, acc := 0#24, res := .empty }

/-- The configuration that State.reset stands in. The spec gives no reset value for it, "each holds the value the
build gives it" (R31). DESIGN CHOICE, assumption log 1: the defaults of R7 to R13 where the spec gives a default, else
the example values of 95_test_vectors.md, and zero for every key of REGISTRY. -/
def exampleBuild : Build :=
  { enc := { err := 100, p := 32, s := 4, r := 3, tec := 0, addr := 0xC3#8,
             registry := ⟨0#8, 0#8, 0#8, 0#8, 0#8⟩ },
    dec := { err := 100, s := 4, toStart := 1400, guardDelay := 200, toBit := 1000,
             startTries := .reads 64, awaitTimeoutEnds := false } }

/-- The machine of a build right after reset: registers at R250's values, the fault record empty (R50), nothing placed
from outside and nothing done yet. -/
def State.resetOf (b : Build) : State :=
  { cfg := b, enc := EncState.reset, dec := DecState.reset, faults := FaultRecord.none,
    events := [], answers := [], freeRounds := 0, freeReads := 0, encLog := [], decLog := [] }

/-- The machine right after reset (R250), in the configuration exampleBuild. -/
def State.reset : State := State.resetOf exampleBuild

end Sys2Proof.Machine
end

