-- ==== Sys2Proof/Machine/Flags.lean ====
section
/-! DEFINITION. The flags of the block, all of them (R49): the two derived busy flags, the valid flag of a frame
result, and the fault record. -/

namespace Sys2Proof.Machine

/-- `E.busy = (E.st != IDLE)` (R41). -/
def encBusy (s : State) : Bool := decide (s.enc.st ≠ .idle)

/-- Whether `D.busy` holds in a decoder state (R48). -/
def decBusySt : DecSt → Bool
  | .idle => false
  | .await => true
  | .synced => true
  | .read => true
  | .done => false

/-- `D.busy = (D.st in AWAIT, SYNCED, READ)` (R48). -/
def decBusy (s : State) : Bool := decBusySt s.dec.st

/-- `valid = (i == ~c)` (R181). -/
def validFlag (c i : Byte) : Bool := decide (i = complement c)

/-- Whether a fault name is in the record (R50). -/
def faultRecorded (f : FaultRecord) : FaultName → Bool
  | .illFormedConfig => f.illFormedConfig
  | .overlappingTransmit => f.overlappingTransmit
  | .overlappingReceive => f.overlappingReceive

/-- The record with a name added (R50); adding a name twice is adding it once. -/
def recordFault (f : FaultRecord) : FaultName → FaultRecord
  | .illFormedConfig => { f with illFormedConfig := true }
  | .overlappingTransmit => { f with overlappingTransmit := true }
  | .overlappingReceive => { f with overlappingReceive := true }

end Sys2Proof.Machine
end

