-- ==== Sys2Proof/Machine/Operands.lean ====
section
/-! DEFINITION. The operand forms of 30_encoding.md: which bit of the frame word stands at a transmission position,
how a bit enters the accumulator, what TXKEY's key stands for, how the read counter compares with the budget, and the
answer the channel gives to the next read. -/

namespace Sys2Proof.Machine

/-- The bit at transmission position k, `fw[23 - k]` (R65, R87). Past position 23 no rule gives a bit, and it is a free
value; no reachable state asks for one (assumption log 18). -/
def frameBit (fw : Frame24) (k : Nat) : Bool :=
  if k < 24 then fw.getLsbD (23 - k) else Config.bitPastFrame fw k

/-- The bit E.DATA_BURST and E.DATA_SPACE send, `E.fw[23 - E.bi]` (R137, R138). -/
def currentBit (s : State) : Bool := frameBit s.enc.fw s.enc.bi

/-- `((acc << 1) | b) & 0xFFFFFF` (R88). -/
def shiftIn (acc : Frame24) (b : Bool) : Frame24 := (acc <<< 1) ||| (BitVec.ofBool b).setWidth 24

/-- `REGISTRY(KEYk)`; none outside KEY1..KEY5 (R97). -/
def registryOf (g : Registry) (k : Nat) : Option Byte :=
  match k with
  | 1 => some g.key1
  | 2 => some g.key2
  | 3 => some g.key3
  | 4 => some g.key4
  | 5 => some g.key5
  | _ => none

/-- How a number of reads compares with START_TRIES; with an infinite budget it is always below (R12, R96). -/
def compareBudget (tries : Nat) : Budget → Ordering
  | .unlimited => .lt
  | .reads n => if tries < n then .lt else if tries = n then .eq else .gt

/-- The guard of D.NOSTART and D.AWAIT_READ (R96). -/
def triesGuard (s : State) : Ordering := compareBudget s.dec.tries s.cfg.dec.startTries

/-- The channel's answer to the next read: the next one State lists, else a free value (R74). -/
def nextAnswer (s : State) : Reading :=
  match s.answers with
  | r :: _ => r
  | [] => Config.channelAnswer s.freeReads

/-- The bit a reading gives in ReadingBits, if it gives one (R92). -/
def readBit? (e : Nat) (r : Reading) : Option Bool :=
  match classifyRead e r with
  | .one => some true
  | .zero => some false
  | _ => none

end Sys2Proof.Machine
end

