-- ==== Sys2Proof/Machine/Ops.lean ====
section
/-! DEFINITION. The named operations the meanings share: the primitives of R19 (emit, measure, wait, report, raise),
the abort, which is the block's only exception (R226), completion (R180), and the acceptance of the two host
commands. The block has no return from an abort: the next RECEIVE is a fresh attempt (R227). -/

namespace Sys2Proof.Machine

/-- A step under its selector: the next state where the guard holds; elsewhere no rule enables the step, and it is
refused (assumption log 5). -/
def whenSelected (g : Prop) [Decidable g] (t : State) : Host.Outcome State Fault Refusal :=
  if g then .next t else .refused .notSelected

/-- `raise Fault(f)` where nothing else changes (R19, R220). -/
def raiseFault (f : FaultName) (s : State) : State := { s with faults := recordFault s.faults f }

/-- An action of the encoder appended to its record. -/
def logEnc (a : EncAction) (s : State) : State := { s with encLog := s.encLog ++ [a] }

/-- An action of the decoder appended to its record. -/
def logDec (a : DecAction) (s : State) : State := { s with decLog := s.decLog ++ [a] }

/-- `emit(level, d)` with `E.carrier <- level` (R19, R232, R233). -/
def emit (level : Level) (d : Nat) (s : State) : State :=
  logEnc (.emit ⟨level, d⟩) { s with enc := { s.enc with carrier := level } }

/-- The read of the next answer takes it from the channel (R67). -/
def dropAnswer (s : State) : State :=
  match s.answers with
  | _ :: rs => { s with answers := rs }
  | [] => { s with freeReads := s.freeReads + 1 }

/-- `measure(t)`: the state after it. The answer is nextAnswer of the state before it (R19, R234). -/
def measurePulse (t : Nat) (s : State) : State := logDec (.measure t (nextAnswer s)) (dropAnswer s)

/-- `wait(d)`: no data effect (R19, R235). -/
def wait (d : Nat) (s : State) : State := logDec (.wait d) s

/-- `report(x)` (R19). -/
def report (x : Result) (s : State) : State := logDec (.report x) { s with dec := { s.dec with res := x } }

/-- `report(x); D.st <- DONE`: the end of an attempt (R186). -/
def finish (x : Result) (s : State) : State :=
  let t := report x s
  { t with dec := { t.dec with st := .done } }

/-- ABORT ENTRY (R177, R226): nothing is saved, the bits collected are discarded, Incomplete is reported. -/
def abort (s : State) : State := finish .incomplete { s with dec := { s.dec with acc := 0#24, n := 0 } }

/-- `complete(v)` (R180, R181). -/
def complete (v : Frame24) (s : State) : State :=
  finish (.frame (addressField v) (commandField v) (inverseField v)
    (validFlag (commandField v) (inverseField v))) s

/-- The registers TRANSMIT writes when it accepts c (R131). -/
def startTelegram (c : Byte) (s : State) : State :=
  logEnc (.transmit c)
    { s with enc :=
      { s.enc with
        fw := frameWordOf s.cfg.enc.addr c
        pc := 0
        sc := 0
        rc := 0
        bi := 0
        ph := .burst
        st := if 0 < s.cfg.enc.p then .pre else .start } }

/-- A host request transmit(c), its conditions in the order of R224: busy, ill-formed, accepted. -/
def requestTransmit (c : Byte) (s : State) : State :=
  if encBusy s then raiseFault .overlappingTransmit s
  else if wellFormedEnc s.cfg.enc then startTelegram c s
  else raiseFault .illFormedConfig s

/-- The registers RECEIVE writes when it accepts the request (R171). -/
def startAttempt (s : State) : State :=
  logDec .receive
    { s with dec := { st := .await, sc := 0, tries := 0, n := 0, acc := 0#24, res := .empty } }

/-- A host request receiveFrame(), its conditions in the order of R224: busy, ill-formed, accepted. -/
def requestReceive (s : State) : State :=
  if decBusy s then raiseFault .overlappingReceive s
  else if wellFormedDec s.cfg.dec then startAttempt s
  else raiseFault .illFormedConfig s

end Sys2Proof.Machine
end

