-- ==== Sys2Proof/Machine/Decoder.lean ====
section
/-! DEFINITION. The decoder's operations (43_decoder.md): RECEIVE, D.NOSTART, the two read steps and the guard. A read
step takes the channel's next answer, and then does what the class of that answer says (R91, R92). -/

namespace Sys2Proof.Machine

/-- The effect of D.NOSTART (R173). -/
def budgetSpent (s : State) : State := finish .noStart s

/-- The read of D.AWAIT_READ: `measure(TO_START)` and `D.tries <- D.tries + 1` (R174). -/
def awaitMeasure (s : State) : State :=
  let t := measurePulse s.cfg.dec.toStart s
  { t with dec := { t.dec with tries := t.dec.tries + 1 } }

/-- D.AWAIT_READ after an AW_IN reading (R174). -/
def onAwIn (s : State) : State :=
  let n := s.dec.sc + 1
  { s with dec := { s.dec with sc := n, st := if n = s.cfg.dec.s then .synced else s.dec.st } }

/-- D.AWAIT_READ after an AW_OUT reading (R174): the count is reset. -/
def onAwOut (s : State) : State := { s with dec := { s.dec with sc := 0 } }

/-- D.AWAIT_READ after an AW_TIMEOUT reading (R174): the policy of R13 decides. -/
def onAwTimeout (s : State) : State :=
  if s.cfg.dec.awaitTimeoutEnds then finish .noStart s else { s with dec := { s.dec with sc := 0 } }

/-- The effect of D.AWAIT_READ (R174). -/
def awaitRead (s : State) : State :=
  match classifyAwait s.cfg.dec.err (nextAnswer s) with
  | .inBand => onAwIn (awaitMeasure s)
  | .timeout => onAwTimeout (awaitMeasure s)
  | .outOfBand => onAwOut (awaitMeasure s)

/-- The effect of D.GUARD (R175). -/
def guardWait (s : State) : State :=
  let t := wait s.cfg.dec.guardDelay s
  { t with dec := { t.dec with n := 0, acc := 0#24, st := .read } }

/-- The read of D.READ_BIT: `measure(TO_BIT)` (R176). -/
def bitMeasure (s : State) : State := measurePulse s.cfg.dec.toBit s

/-- D.READ_BIT after an RB_ONE or RB_ZERO reading: the bit is shifted in, and the 24th completes the frame (R176,
R180). -/
def onBit (b : Bool) (s : State) : State :=
  let v := shiftIn s.dec.acc b
  let n := s.dec.n + 1
  let t := { s with dec := { s.dec with acc := v, n := n } }
  if n = 24 then complete v t else t

/-- The effect of D.READ_BIT (R176, R177). -/
def readBitStep (s : State) : State :=
  match classifyRead s.cfg.dec.err (nextAnswer s) with
  | .timeout => abort (bitMeasure s)
  | .abortShort => abort (bitMeasure s)
  | .abortLong => abort (bitMeasure s)
  | .one => onBit true (bitMeasure s)
  | .zero => onBit false (bitMeasure s)

/-- `RECEIVE` (R171, R172). -/
def execReceive (s : State) : Host.Outcome State Fault Refusal := .next (requestReceive s)

/-- `D.NOSTART` (R173). -/
def execDNostart (s : State) : Host.Outcome State Fault Refusal :=
  whenSelected (s.dec.st = .await ∧ triesGuard s = .eq) (budgetSpent s)

/-- `D.AWAIT_READ` (R174). -/
def execDAwaitRead (s : State) : Host.Outcome State Fault Refusal :=
  whenSelected (s.dec.st = .await ∧ triesGuard s = .lt) (awaitRead s)

/-- `D.GUARD` (R175). -/
def execDGuard (s : State) : Host.Outcome State Fault Refusal :=
  whenSelected (s.dec.st = .synced) (guardWait s)

/-- `D.READ_BIT` (R176). -/
def execDReadBit (s : State) : Host.Outcome State Fault Refusal :=
  whenSelected (s.dec.st = .read) (readBitStep s)

end Sys2Proof.Machine
end

