-- ==== Sys2Proof/Machine/Classes.lean ====
section
/-! DEFINITION. The class rows (R91, R92). A class names the outcome of one read: its meaning is the decoder's read step,
where that step is selected and the channel's next answer is the reading named and lies in the class (R222; assumption
log 7). -/

namespace Sys2Proof.Machine

/-- The next step is D.AWAIT_READ and its answer is r, of class k. -/
def awaitReads (r : Reading) (k : AwClass) (s : State) : Bool :=
  decide (s.dec.st = .await) && decide (triesGuard s = .lt) && decide (nextAnswer s = r) &&
    decide (classifyAwait s.cfg.dec.err r = k)

/-- The next step is D.READ_BIT and its answer is r, of class k. -/
def bitReads (r : Reading) (k : RbClass) (s : State) : Bool :=
  decide (s.dec.st = .read) && decide (nextAnswer s = r) && decide (classifyRead s.cfg.dec.err r = k)

/-- `AW_IN` (R91, R174). -/
def execAwIn (d : Nat) (s : State) : Host.Outcome State Fault Refusal :=
  whenSelected (awaitReads (some d) .inBand s = true) (onAwIn (awaitMeasure s))

/-- `AW_TIMEOUT` (R91, R174). -/
def execAwTimeout (s : State) : Host.Outcome State Fault Refusal :=
  whenSelected (awaitReads none .timeout s = true) (onAwTimeout (awaitMeasure s))

/-- `AW_OUT` (R91, R174). -/
def execAwOut (d : Nat) (s : State) : Host.Outcome State Fault Refusal :=
  whenSelected (awaitReads (some d) .outOfBand s = true) (onAwOut (awaitMeasure s))

/-- `RB_TIMEOUT` (R92, R177). -/
def execRbTimeout (s : State) : Host.Outcome State Fault Refusal :=
  whenSelected (bitReads none .timeout s = true) (abort (bitMeasure s))

/-- `RB_ABORT_SHORT` (R92, R177). -/
def execRbAbortShort (d : Nat) (s : State) : Host.Outcome State Fault Refusal :=
  whenSelected (bitReads (some d) .abortShort s = true) (abort (bitMeasure s))

/-- `RB_ABORT_LONG` (R92, R177). -/
def execRbAbortLong (d : Nat) (s : State) : Host.Outcome State Fault Refusal :=
  whenSelected (bitReads (some d) .abortLong s = true) (abort (bitMeasure s))

/-- `RB_ONE` (R92, R176). -/
def execRbOne (d : Nat) (s : State) : Host.Outcome State Fault Refusal :=
  whenSelected (bitReads (some d) .one s = true) (onBit true (bitMeasure s))

/-- `RB_ZERO` (R92, R176). -/
def execRbZero (d : Nat) (s : State) : Host.Outcome State Fault Refusal :=
  whenSelected (bitReads (some d) .zero s = true) (onBit false (bitMeasure s))

end Sys2Proof.Machine
end

