-- ==== Sys2Proof/Machine/Encoder.lean ====
section
/-! DEFINITION. The encoder's operations (42_encoder.md): TRANSMIT and the seven segment steps. Each segment step is
its rule's pseudocode as a function of the state, and its meaning runs it where the selector of R95 holds. -/

namespace Sys2Proof.Machine

/-- The effect of E.PRE_BURST (R133). -/
def preBurst (s : State) : State :=
  let t := emit .on (bit0Width s.cfg.enc.err) s
  { t with enc := { t.enc with ph := .space } }

/-- The effect of E.PRE_SPACE (R134). -/
def preSpace (s : State) : State :=
  let t := emit .off (preSpaceWidth s.cfg.enc) s
  let n := s.enc.pc + 1
  { t with enc :=
    { t.enc with pc := n, ph := .burst, st := if n = s.cfg.enc.p then .start else t.enc.st } }

/-- The effect of E.START_BURST (R135). -/
def startBurst (s : State) : State :=
  let t := emit .on (startWidth s.cfg.enc.err) s
  { t with enc := { t.enc with ph := .space } }

/-- The effect of E.START_SPACE (R136). -/
def startSpace (s : State) : State :=
  let t := emit .off (startWidth s.cfg.enc.err) s
  let n := s.enc.sc + 1
  { t with enc :=
    { t.enc with
      sc := n
      ph := .burst
      st := if n = s.cfg.enc.s then .data else t.enc.st
      bi := if n = s.cfg.enc.s then 0 else t.enc.bi } }

/-- The effect of E.DATA_BURST (R137). -/
def dataBurst (s : State) : State :=
  let t := emit .on (bitWidth s.cfg.enc.err (currentBit s)) s
  { t with enc := { t.enc with ph := .space } }

/-- The effect of E.DATA_SPACE (R138). -/
def dataSpace (s : State) : State :=
  let t := emit .off (bitWidth s.cfg.enc.err (currentBit s)) s
  let n := s.enc.bi + 1
  { t with enc := { t.enc with bi := n, ph := .burst, st := if n = 24 then .stop else t.enc.st } }

/-- The effect of E.STOP (R139). -/
def stopGap (s : State) : State :=
  let t := emit .off (minStopGap s.cfg.enc.err) s
  let n := s.enc.rc + 1
  { t with enc :=
    { t.enc with
      rc := n
      st := if n = s.cfg.enc.r then .idle else .start
      sc := if n = s.cfg.enc.r then t.enc.sc else 0 } }

/-- `TRANSMIT c` (R131, R132). -/
def execTransmit (c : Byte) (s : State) : Host.Outcome State Fault Refusal := .next (requestTransmit c s)

/-- `E.PRE_BURST` (R133). -/
def execEPreBurst (s : State) : Host.Outcome State Fault Refusal :=
  whenSelected (s.enc.st = .pre ∧ s.enc.ph = .burst) (preBurst s)

/-- `E.PRE_SPACE` (R134). -/
def execEPreSpace (s : State) : Host.Outcome State Fault Refusal :=
  whenSelected (s.enc.st = .pre ∧ s.enc.ph = .space) (preSpace s)

/-- `E.START_BURST` (R135). -/
def execEStartBurst (s : State) : Host.Outcome State Fault Refusal :=
  whenSelected (s.enc.st = .start ∧ s.enc.ph = .burst) (startBurst s)

/-- `E.START_SPACE` (R136). -/
def execEStartSpace (s : State) : Host.Outcome State Fault Refusal :=
  whenSelected (s.enc.st = .start ∧ s.enc.ph = .space) (startSpace s)

/-- `E.DATA_BURST` (R137). -/
def execEDataBurst (s : State) : Host.Outcome State Fault Refusal :=
  whenSelected (s.enc.st = .data ∧ s.enc.ph = .burst) (dataBurst s)

/-- `E.DATA_SPACE` (R138). -/
def execEDataSpace (s : State) : Host.Outcome State Fault Refusal :=
  whenSelected (s.enc.st = .data ∧ s.enc.ph = .space) (dataSpace s)

/-- `E.STOP` (R139), `E.ph` ignored. -/
def execEStop (s : State) : Host.Outcome State Fault Refusal :=
  whenSelected (s.enc.st = .stop) (stopGap s)

end Sys2Proof.Machine
end

