-- ==== Sys2Proof/Machine/HostOps.lean ====
section
/-! DEFINITION. The host-level pseudo-operation TXKEY (R97) and the reset event (R250, R251). -/

namespace Sys2Proof.Machine

/-- `TXKEY k`: exactly TRANSMIT with `c = REGISTRY(KEYk)`; any other key is refused (R97, D36). -/
def execTxkey (k : Nat) (s : State) : Host.Outcome State Fault Refusal :=
  match registryOf s.cfg.enc.registry k with
  | some c => .next (requestTransmit c s)
  | none => .refused (.unknownKey k)

/-- What RESET writes: every encoder and decoder register, with setCarrier(false), and neither the configuration nor
the fault record (R250). -/
def resetRegisters (s : State) : State :=
  logEnc (.setCarrier false) { s with enc := EncState.reset, dec := DecState.reset }

/-- `RESET` (R250, R251): it is taken in every state and ends a telegram or an attempt at once. -/
def execReset (s : State) : Host.Outcome State Fault Refusal := .next (resetRegisters s)

end Sys2Proof.Machine
end

