-- ==== Sys2Proof/Machine/Symbols.lean ====
section
/-! DEFINITION. The symbol rows and the frame word. A symbol is one burst followed by one space (R80): its meaning runs
the two segment steps that emit it, one after the other, where the registers have it as the next symbol of the telegram
(assumption log 6). The frame word is formed by TRANSMIT and completed by D.READ_BIT (R86; assumption log 9). -/

namespace Sys2Proof.Machine

/-- `SYM_ZERO` (R81): the burst and the space of a frame bit of value 0. -/
def execSymZero (s : State) : Host.Outcome State Fault Refusal :=
  whenSelected (s.enc.st = .data ∧ s.enc.ph = .burst ∧ currentBit s = false) (dataSpace (dataBurst s))

/-- `SYM_ONE` (R82): the burst and the space of a frame bit of value 1. -/
def execSymOne (s : State) : Host.Outcome State Fault Refusal :=
  whenSelected (s.enc.st = .data ∧ s.enc.ph = .burst ∧ currentBit s = true) (dataSpace (dataBurst s))

/-- `SYM_START` (R83): the burst and the space of a start pulse. -/
def execSymStart (s : State) : Host.Outcome State Fault Refusal :=
  whenSelected (s.enc.st = .start ∧ s.enc.ph = .burst) (startSpace (startBurst s))

/-- `SYM_PRE0` (R84): the burst and the shortened space of a preamble zero-bit. -/
def execSymPre0 (s : State) : Host.Outcome State Fault Refusal :=
  whenSelected (s.enc.st = .pre ∧ s.enc.ph = .burst) (preSpace (preBurst s))

/-- `SYM_STOP` (R85): one OFF segment and no burst. -/
def execSymStop (s : State) : Host.Outcome State Fault Refusal :=
  whenSelected (s.enc.st = .stop) (stopGap s)

/-- The value that the next reading completes, if the decoder has read 23 bits and that reading gives the 24th
(R180). -/
def completedWord (s : State) : Option Frame24 :=
  if s.dec.st = .read ∧ s.dec.n = 23 then
    (readBit? s.cfg.dec.err (nextAnswer s)).map (shiftIn s.dec.acc)
  else none

/-- `FRAME_WORD` (R86). At the encoder: TRANSMIT accepts c and forms `a ++ c ++ i`. At the decoder: D.READ_BIT
completes `a ++ c ++ i`, whatever its valid flag. -/
def execFrameWord (side : Side) (a c i : Byte) (s : State) : Host.Outcome State Fault Refusal :=
  match side with
  | .encoder =>
    whenSelected (s.enc.st = .idle ∧ wellFormedEnc s.cfg.enc = true ∧ formedByEncoder s.cfg a c i = true)
      (startTelegram c s)
  | .decoder => whenSelected (completedWord s = some (packFrame a c i)) (readBitStep s)

end Sys2Proof.Machine
end

