-- ==== Sys2Proof/Machine/Results.lean ====
section
/-! DEFINITION. The result rows (R93). A result names the outcome of an attempt: its meaning is the decoder step that
writes it to D.res, where that step is selected and writes it (R221, R222; assumption log 8). -/

namespace Sys2Proof.Machine

/-- `Frame{valid=true}` (R93, R180): the 24th reading completes a, c, i with `i == ~c`. -/
def execFrameValidTrue (a c i : Byte) (s : State) : Host.Outcome State Fault Refusal :=
  whenSelected (completedWord s = some (packFrame a c i) ∧ validFlag c i = true) (readBitStep s)

/-- `Frame{valid=false}` (R93, R181): the 24th reading completes a, c, i with `i != ~c`. -/
def execFrameValidFalse (a c i : Byte) (s : State) : Host.Outcome State Fault Refusal :=
  whenSelected (completedWord s = some (packFrame a c i) ∧ validFlag c i = false) (readBitStep s)

/-- `Incomplete` (R93, R177): sync was achieved, and the next reading is an abort. -/
def execIncomplete (s : State) : Host.Outcome State Fault Refusal :=
  whenSelected (s.dec.st = .read ∧ readBit? s.cfg.dec.err (nextAnswer s) = none) (abort (bitMeasure s))

/-- `NoStart` (R93): the budget is spent (R173), or the next AwaitStart read times out under the policy of R13
(R174). -/
def execNoStart (s : State) : Host.Outcome State Fault Refusal :=
  match triesGuard s with
  | .eq => whenSelected (s.dec.st = .await) (budgetSpent s)
  | .lt =>
    whenSelected (s.dec.st = .await ∧ nextAnswer s = none ∧ s.cfg.dec.awaitTimeoutEnds = true)
      (finish .noStart (awaitMeasure s))
  | .gt => .refused .notSelected

/-- `EMPTY` (R93): a new attempt clears the result register (R47, R171). -/
def execEmpty (s : State) : Host.Outcome State Fault Refusal :=
  whenSelected (decBusy s = false ∧ wellFormedDec s.cfg.dec = true) (startAttempt s)

end Sys2Proof.Machine
end

