-- ==== Sys2Proof/Machine/Dispatch.lean ====
section
/-! DEFINITION. The dispatch: one arm for each row of spec/opcode_table.json. -/

namespace Sys2Proof.Machine

def exec (i : Instr) (s : State) : Host.Outcome State Fault Refusal :=
  match i with
  | .transmit c => Sys2Proof.Machine.execTransmit c s
  | .ePreBurst => Sys2Proof.Machine.execEPreBurst s
  | .ePreSpace => Sys2Proof.Machine.execEPreSpace s
  | .eStartBurst => Sys2Proof.Machine.execEStartBurst s
  | .eStartSpace => Sys2Proof.Machine.execEStartSpace s
  | .eDataBurst => Sys2Proof.Machine.execEDataBurst s
  | .eDataSpace => Sys2Proof.Machine.execEDataSpace s
  | .eStop => Sys2Proof.Machine.execEStop s
  | .receive => Sys2Proof.Machine.execReceive s
  | .dNostart => Sys2Proof.Machine.execDNostart s
  | .dAwaitRead => Sys2Proof.Machine.execDAwaitRead s
  | .dGuard => Sys2Proof.Machine.execDGuard s
  | .dReadBit => Sys2Proof.Machine.execDReadBit s
  | .symZero => Sys2Proof.Machine.execSymZero s
  | .symOne => Sys2Proof.Machine.execSymOne s
  | .symStart => Sys2Proof.Machine.execSymStart s
  | .symPre0 => Sys2Proof.Machine.execSymPre0 s
  | .symStop => Sys2Proof.Machine.execSymStop s
  | .frameWord side a c x => Sys2Proof.Machine.execFrameWord side a c x s
  | .awIn d => Sys2Proof.Machine.execAwIn d s
  | .awTimeout => Sys2Proof.Machine.execAwTimeout s
  | .awOut d => Sys2Proof.Machine.execAwOut d s
  | .rbTimeout => Sys2Proof.Machine.execRbTimeout s
  | .rbAbortShort d => Sys2Proof.Machine.execRbAbortShort d s
  | .rbAbortLong d => Sys2Proof.Machine.execRbAbortLong d s
  | .rbOne d => Sys2Proof.Machine.execRbOne d s
  | .rbZero d => Sys2Proof.Machine.execRbZero d s
  | .frameValidTrue a c x => Sys2Proof.Machine.execFrameValidTrue a c x s
  | .frameValidFalse a c x => Sys2Proof.Machine.execFrameValidFalse a c x s
  | .incomplete => Sys2Proof.Machine.execIncomplete s
  | .noStart => Sys2Proof.Machine.execNoStart s
  | .empty => Sys2Proof.Machine.execEmpty s
  | .txkey k => Sys2Proof.Machine.execTxkey k s
  | .reset => Sys2Proof.Machine.execReset s

end Sys2Proof.Machine
end

