-- ==== Sys2Proof/Machine/Fetch.lean ====
section
/-! DEFINITION. What runs next. The block fetches no instruction from a memory (R71): the next event says who moves,
and the code of the move is made from the registers, `E.st ++ E.ph` or `D.st` with its guard, and the host's request
(R95, R96). Here too is how a word of the opcode table is placed so that the next step runs it. -/

namespace Sys2Proof.Machine

/-- The moves of a round, in order (R241). -/
def roundMoves (r : Round) : List Move := r.beforeEncoder ++ .encoder :: (r.beforeDecoder ++ [.decoder])

/-- The events of the n-th free round (assumption log 3). -/
def freeEvents (n : Nat) : List Event := (roundMoves (Config.environment n)).map .move

/-- The next event: the first one State lists, else the first of the next free round. A round is never empty. -/
def nextEvent (s : State) : Event :=
  match s.events with
  | ev :: _ => ev
  | [] => (freeEvents s.freeRounds).headD (.move .encoder)

/-- The state after the next event is taken. Where it begins a free round, the rest of the round is listed. -/
def dropEvent (s : State) : State :=
  match s.events with
  | _ :: evs => { s with events := evs }
  | [] => { s with events := (freeEvents s.freeRounds).tail, freeRounds := s.freeRounds + 1 }

/-- The code of a request: the selector of its unit with the request (R95, R96), or its own format. -/
def requestCode (s : State) : Request → Code
  | .transmit c => .encSel (encSelector s.enc.st s.enc.ph) (some c)
  | .txkey k => .pseudo k
  | .receive => .decSel (decStCode s.dec.st) true (triesGuard s)
  | .reset => .event

/-- The code of an event (R95, R96). -/
def eventCode (s : State) : Event → Code
  | .item c => c
  | .move (.host q) => requestCode s q
  | .move .encoder => .encSel (encSelector s.enc.st s.enc.ph) none
  | .move .decoder => .decSel (decStCode s.dec.st) false (triesGuard s)

/-- The fetch: the code of what runs next. -/
def fetchCode (s : State) : Code := eventCode s (nextEvent s)

/-- What the fetched code decodes to. -/
def fetched (s : State) : Decoded := decode s.cfg (fetchCode s)

/-- What a step does when the fetched code is no instruction. A unit with no step leaves the block as it is
(R130, R170, R243); an unused state code is stuck (R98); any other code is refused. -/
def onRejected (e : DecodeError) (s : State) : Host.Outcome State Fault Refusal :=
  match e with
  | .noStep => .next s
  | .unusedState => .fault .stuckState
  | .noGuard => .refused (.undecodable .noGuard)
  | .noSymbol => .refused (.undecodable .noSymbol)
  | .noFrameWord => .refused (.undecodable .noFrameWord)
  | .noResult => .refused (.undecodable .noResult)
  | .unknownKey => .refused (.undecodable .unknownKey)

/-- An event put before those State lists. -/
def placeEvent (ev : Event) (s : State) : State := { s with events := ev :: s.events }

/-- `E.st` and `E.ph` set to what a selector word says, and then an event placed. An unused state code has no
register value; the code is then placed as it stands. -/
def placeEncSel (sel : BitVec 4) (request : Option Byte) (s : State) : State :=
  match encStOfCode (sel.extractLsb' 1 3) with
  | none => placeEvent (.item (.encSel sel request)) s
  | some st =>
    let t := { s with enc := { s.enc with st := st, ph := phaseOfCode (sel.extractLsb' 0 1) } }
    match request with
    | some c => placeEvent (.move (.host (.transmit c))) t
    | none => placeEvent (.move .encoder) t

/-- `D.st` set to what a selector word says, and then an event placed; as placeEncSel. -/
def placeDecSel (sel : BitVec 3) (request : Bool) (tries : Ordering) (s : State) : State :=
  match decStOfCode sel with
  | none => placeEvent (.item (.decSel sel request tries)) s
  | some st =>
    let t := { s with dec := { s.dec with st := st } }
    if request then placeEvent (.move (.host .receive)) t else placeEvent (.move .decoder) t

/-- A frame word about to be completed: 23 of its bits read, its last bit the next answer, with its nominal width. -/
def placeFrame (w : Frame24) (s : State) : State :=
  placeEvent (.item (.frame24 .decoder w))
    { s with
      dec := { s.dec with st := .read, n := 23, acc := w >>> 1 }
      answers := some (bitWidth s.cfg.dec.err (w.getLsbD 0)) :: s.answers }

/-- A code placed so that the very next step runs it. -/
def placeCode (c : Code) (s : State) : State :=
  match c with
  | .encSel sel request => placeEncSel sel request s
  | .decSel sel request tries => placeDecSel sel request tries s
  | .frame24 .decoder w => placeFrame w s
  | other => placeEvent (.item other) s

/-- A word of the opcode table placed so that the very next step runs it; a word the table does not give changes
nothing. -/
def placeWord (nbits w : Nat) (s : State) : State :=
  match tableCode nbits w with
  | some c => placeCode c s
  | none => s

end Sys2Proof.Machine
end

