-- ==== Sys2Proof/Machine/Step.lean ====
section
/-! DEFINITION. One step: fetch the code of the next event, decode it, run the instruction. -/

namespace Sys2Proof.Machine

/-- One step of the block (R17). The event is taken; then the instruction its code decodes to is run on what is
left. -/
def step (s : State) : Host.Outcome State Fault Refusal :=
  match fetched s with
  | .ok i => exec i (dropEvent s)
  | .rejected e => onRejected e (dropEvent s)

/-- s with a word of the opcode table placed so that the very next step runs it (assumption log 11). -/
def State.withFetchWord (s : State) (nbits w : Nat) : State := placeWord nbits w s

end Sys2Proof.Machine
end

