-- ==== Sys2Proof/Machine/Functional.lean ====
section
/-! DEFINITION. The functional forms of the spec: the telegram (R89, R141), its duration (R265, R266), the ideal channel
(R75) and the attempt (R185). Statements compare the machine with them. -/

namespace Sys2Proof.Machine

/-- A list repeated n times, one after the other. -/
def repeated {α : Type} : Nat → List α → List α
  | 0, _ => []
  | n + 1, l => l ++ repeated n l

/-- `pre` (R141). -/
def preSegs (k : EncConfig) : List Segment := repeated k.p (symSegs k .pre0)

/-- `start` (R141). -/
def startSegs (k : EncConfig) : List Segment := repeated k.s (symSegs k .start)

/-- `bits(c)` (R141), from the frame word: position 0 first. -/
def bitSegs (k : EncConfig) (fw : Frame24) : List Segment :=
  (List.range 24).flatMap (fun j => symSegs k (bitSym (frameBit fw j)))

/-- `rep(c)` (R141). -/
def repSegs (k : EncConfig) (c : Byte) : List Segment :=
  startSegs k ++ bitSegs k (frameWordOf k.addr c) ++ symSegs k .stop

/-- `segs(c)` (R141). -/
def telegram (k : EncConfig) (c : Byte) : List Segment := preSegs k ++ repeated k.r (repSegs k c)

/-- The number of segments of a telegram, `2*P + R*(2*S_ENC + 49)` (R90, R140). -/
def telegramLength (k : EncConfig) : Nat := 2 * k.p + k.r * (2 * k.s + 49)

/-- The length of a segment list in microseconds. -/
def duration (segs : List Segment) : Nat := (segs.map (·.dur)).sum

/-- The time the carrier is ON in a segment list. -/
def onTime (segs : List Segment) : Nat := ((segs.filter (fun g => decide (g.level = .on))).map (·.dur)).sum

/-- The number of one-bits of a byte (R116, R266). -/
def popcount (b : Byte) : Nat := ((List.range 8).filter (fun j => b.getLsbD j)).length

/-- Step 1 of the ideal channel: adjacent segments of one level become one interval (R75). -/
def mergeRuns : List Segment → List Segment
  | [] => []
  | x :: xs =>
    match mergeRuns xs with
    | [] => [x]
    | y :: ys => if x.level = y.level then ⟨x.level, x.dur + y.dur⟩ :: ys else x :: y :: ys

/-- Step 2 of the ideal channel: the ON intervals, in order (R75). -/
def onIntervals (segs : List Segment) : List Nat :=
  ((mergeRuns segs).filter (fun g => decide (g.level = .on))).map (·.dur)

/-- `ideal(segs)`: the ON intervals as readings, then n times `none`; the spec's stream is the one of every n
(R75). -/
def idealReadings (segs : List Segment) (n : Nat) : List Reading :=
  (onIntervals segs).map some ++ List.replicate n none

/-- The nominal reading of a bit (R20, R76). -/
def bitReading (e : Nat) (b : Bool) : Reading := some (bitWidth e b)

/-- The 24 nominal readings of a frame word, position 0 first (R76). -/
def frameReadings (e : Nat) (fw : Frame24) : List Reading :=
  (List.range 24).map (fun j => bitReading e (frameBit fw j))

/-- n nominal start readings (R20, R76). -/
def startReadings (e n : Nat) : List Reading := List.replicate n (some (startWidth e))

/-- n nominal preamble readings (R20, R76). -/
def preReadings (e n : Nat) : List Reading := List.replicate n (some (bit0Width e))

/-- What one attempt comes to on a finite run of answers: a result and how many answers it has read, or an attempt
that is still going when the answers end. -/
inductive Attempt where
  | result (x : Result) (used : Nat)
  | pending
deriving DecidableEq, Repr

/-- ReadingBits of decode(rs) (R185): n bits are collected in acc, and used answers have been read. -/
def readLoop (k : DecConfig) (n : Nat) (acc : Frame24) (used : Nat) : List Reading → Attempt
  | [] => .pending
  | r :: rs =>
    match readBit? k.err r with
    | none => .result .incomplete (used + 1)
    | some b =>
      let v := shiftIn acc b
      if n + 1 = 24 then
        .result (.frame (addressField v) (commandField v) (inverseField v)
          (validFlag (commandField v) (inverseField v))) (used + 1)
      else readLoop k (n + 1) v (used + 1) rs

/-- AwaitStart of decode(rs) (R185): sc consecutive in-band readings, tries reads made. Every read so far was made
here, so tries is also the number of answers read. -/
def awaitLoop (k : DecConfig) (sc tries : Nat) : List Reading → Attempt
  | [] => if compareBudget tries k.startTries = .eq then .result .noStart tries else .pending
  | r :: rs =>
    if compareBudget tries k.startTries = .eq then .result .noStart tries
    else
      match classifyAwait k.err r with
      | .inBand =>
        if sc + 1 = k.s then readLoop k 0 0#24 (tries + 1) rs else awaitLoop k (sc + 1) (tries + 1) rs
      | .timeout =>
        if k.awaitTimeoutEnds then .result .noStart (tries + 1) else awaitLoop k 0 (tries + 1) rs
      | .outOfBand => awaitLoop k 0 (tries + 1) rs

/-- `decode(rs)` (R185) on the answers listed. -/
def decodeAttempt (k : DecConfig) (rs : List Reading) : Attempt := awaitLoop k 0 0 rs

/-- The host's retry loop over the answers listed: the results of at most n attempts, with the answers each has read, each
attempt starting at the first answer the one before it did not read (R186, R191, R193, R255). It ends at an attempt that
is still going when the answers end. -/
def retryLoop (k : DecConfig) : Nat → List Reading → List (Result × Nat)
  | 0, _ => []
  | n + 1, rs =>
    match decodeAttempt k rs with
    | .result x used => (x, used) :: retryLoop k n (rs.drop used)
    | .pending => []

end Sys2Proof.Machine
end

