-- ==== Sys2Proof/Machine/Script.lean ====
section
/-! DEFINITION. The scenario-script notation of R20, the assembler syntax of this block: each line is one host command
or one channel item, and the macros BITS, STARTS and PRE expand to PULSE lines. -/

namespace Sys2Proof.Machine

/-- The duration of a PULSE line: a number of microseconds, or a multiple of ERR (R20). -/
inductive PulseLength where
  | micros (n : Nat)
  | units (k : Nat)
deriving DecidableEq, Repr

/-- A line of a script (R20). -/
inductive Line where
  | tx (c : Byte)
  | txkey (k : Nat)
  | rx
  | pulse (d : PulseLength)
  | none
deriving DecidableEq, Repr

/-- A pulse length in microseconds (R20). -/
def PulseLength.value (e : Nat) : PulseLength → Nat
  | .micros n => n
  | .units k => k * e

/-- `BITS <byte>`: eight PULSE lines, MSB first (R20). -/
def bitsMacro (b : Byte) : List Line :=
  (List.range 8).map (fun j => .pulse (.units (if b.getLsbD (7 - j) then 4 else 2)))

/-- `STARTS <n>`: n lines of `PULSE 6*E` (R20). -/
def startsMacro (n : Nat) : List Line := List.replicate n (.pulse (.units 6))

/-- `PRE <n>`: n lines of `PULSE 2*E` (R20). -/
def preMacro (n : Nat) : List Line := List.replicate n (.pulse (.units 2))

/-- The host request of a line, if it is a command. -/
def Line.request : Line → Option Request
  | .tx c => some (.transmit c)
  | .txkey k => some (.txkey k)
  | .rx => some .receive
  | .pulse _ => Option.none
  | .none => Option.none

/-- The channel answer of a line, if it is a channel item. -/
def Line.answer (e : Nat) : Line → Option Reading
  | .tx _ => Option.none
  | .txkey _ => Option.none
  | .rx => Option.none
  | .pulse d => some (some (d.value e))
  | .none => some Option.none

/-- A script placed: its commands as requests still to come and its items as the channel's answers, each in order. The
notation says nothing of when a unit moves; those moves are the other events (D28). -/
def placeScript (lines : List Line) (s : State) : State :=
  { s with
    events := s.events ++ (lines.filterMap Line.request).map (fun q => .move (.host q))
    answers := s.answers ++ lines.filterMap (Line.answer s.cfg.dec.err) }

end Sys2Proof.Machine
end

