-- ==== Sys2Proof/Safety.lean ====
section
/-! DEFINITION. What counts as a good state and a safe run: the register bounds and relations the spec states (R39, R40,
R43 to R47, R117), the host's duties (R238), the terms of the spec's whole-machine properties, and the timing conditions
of 70_reset_and_hazards.md. No rule of the machine depends on the timing conditions. -/

namespace Sys2Proof.Machine

/-- The carrier agrees with the sequencer (R40, R145): it is ON exactly between a burst and its space. -/
def CarrierOk (e : EncState) : Prop :=
  match e.st, e.ph with
  | .idle, _ => e.carrier = .off
  | .stop, _ => e.ph = .burst ∧ e.carrier = .off
  | _, .burst => e.carrier = .off
  | _, .space => e.carrier = .on

/-- Where the counters stand in each encoder state (R35 to R38, R117). -/
def CountersOk (k : EncConfig) (e : EncState) : Prop :=
  match e.st with
  | .idle => True
  | .pre => e.pc < k.p ∧ e.sc = 0 ∧ e.rc = 0 ∧ e.bi = 0
  | .start => e.pc = k.p ∧ e.sc < k.s ∧ e.rc < k.r
  | .data => e.pc = k.p ∧ e.sc = k.s ∧ e.rc < k.r ∧ e.bi < 24
  | .stop => e.pc = k.p ∧ e.sc = k.s ∧ e.rc < k.r ∧ e.bi = 24

/-- "No counter passes its bound" on the encoder's side (R117). -/
def EncBounds (k : EncConfig) (e : EncState) : Prop := e.pc ≤ k.p ∧ e.sc ≤ k.s ∧ e.rc ≤ k.r ∧ e.bi ≤ 24

/-- The frame word of a telegram in progress is the one its TRANSMIT formed (R39, R86). -/
def FrameOk (k : EncConfig) (e : EncState) : Prop := ∃ c : Byte, e.fw = frameWordOf k.addr c

/-- A good encoder: its counters are within their bounds, its carrier agrees with its sequencer, and while it is busy
its configuration is well formed (R224) and its frame word is a frame word of its address. -/
def EncInv (s : State) : Prop :=
  CarrierOk s.enc ∧ EncBounds s.cfg.enc s.enc ∧ CountersOk s.cfg.enc s.enc ∧
    (s.enc.st ≠ .idle → wellFormedEnc s.cfg.enc = true ∧ FrameOk s.cfg.enc s.enc)

/-- `D.tries` is at most START_TRIES when that is finite (R44). -/
def TriesOk (s : State) : Prop := compareBudget s.dec.tries s.cfg.dec.startTries ≠ .gt

/-- Where the counters and the result stand in each decoder state (R43, R45 to R47). -/
def DecStateOk (k : DecConfig) (d : DecState) : Prop :=
  match d.st with
  | .idle => d.res = .empty
  | .await => d.res = .empty ∧ d.sc < k.s ∧ d.n = 0 ∧ d.acc = 0#24
  | .synced => d.res = .empty ∧ d.sc = k.s ∧ d.n = 0 ∧ d.acc = 0#24
  | .read => d.res = .empty ∧ d.sc = k.s ∧ d.n < 24
  | .done => d.res ≠ .empty

/-- A reported frame's valid flag is `i == ~c` (R181). -/
def ValidFlagOk : Result → Prop
  | .frame _ c i valid => valid = validFlag c i
  | .empty => True
  | .incomplete => True
  | .noStart => True

/-- A good decoder: its counters are within their bounds, the accumulator holds no bit above the bits collected (R184),
its result agrees with its state, and while it is busy its configuration is well formed (R224). -/
def DecInv (s : State) : Prop :=
  s.dec.sc ≤ s.cfg.dec.s ∧ TriesOk s ∧ s.dec.n ≤ 24 ∧ s.dec.acc.toNat < 2 ^ s.dec.n ∧
    DecStateOk s.cfg.dec s.dec ∧ ValidFlagOk s.dec.res ∧
    (decBusy s = true → wellFormedDec s.cfg.dec = true)

/-- The invariant of the block. -/
def Inv (s : State) : Prop := EncInv s ∧ DecInv s

/-- No duty of the host with a fault name has been broken (R238). -/
def HostDutiesKept (s : State) : Prop := s.faults = FaultRecord.none

/-- k steps of the machine. -/
def run (k : Nat) (s : State) : Host.Outcome State Fault Refusal := Host.Core.run Sys2Proof.core k s

/-- The next n events are moves of the encoder. -/
def encoderMoves (n : Nat) (s : State) : State :=
  { s with events := List.replicate n (.move .encoder) ++ s.events }

/-- The next n events are moves of the decoder. -/
def decoderMoves (n : Nat) (s : State) : State :=
  { s with events := List.replicate n (.move .decoder) ++ s.events }

/-- The segments among the encoder's actions (R145). -/
def emittedSegments (l : List EncAction) : List Segment :=
  l.filterMap (fun a => match a with
    | .emit g => some g
    | .transmit _ => none
    | .setCarrier _ => none)

/-- The instructions that act on the encoder (R170). RESET acts on both units. -/
def actsOnEncoder : Instr → Bool
  | .transmit _ => true
  | .ePreBurst => true
  | .ePreSpace => true
  | .eStartBurst => true
  | .eStartSpace => true
  | .eDataBurst => true
  | .eDataSpace => true
  | .eStop => true
  | .receive => false
  | .dNostart => false
  | .dAwaitRead => false
  | .dGuard => false
  | .dReadBit => false
  | .symZero => true
  | .symOne => true
  | .symStart => true
  | .symPre0 => true
  | .symStop => true
  | .frameWord .encoder _ _ _ => true
  | .frameWord .decoder _ _ _ => false
  | .awIn _ => false
  | .awTimeout => false
  | .awOut _ => false
  | .rbTimeout => false
  | .rbAbortShort _ => false
  | .rbAbortLong _ => false
  | .rbOne _ => false
  | .rbZero _ => false
  | .frameValidTrue _ _ _ => false
  | .frameValidFalse _ _ _ => false
  | .incomplete => false
  | .noStart => false
  | .empty => false
  | .txkey _ => true
  | .reset => true

/-- The instructions that act on the decoder (R170). RESET acts on both units. -/
def actsOnDecoder (i : Instr) : Bool := i == .reset || !actsOnEncoder i

/-- The condition of R120 on two base units. -/
def interoperable (ee ed : Nat) : Prop := 5 * ed ≤ 6 * ee ∧ 6 * ee ≤ 7 * ed

/-- START_TRIES is at least n, or infinite (R187, R191, R192). -/
def budgetAtLeast (n : Nat) : Budget → Prop
  | .unlimited => True
  | .reads m => n ≤ m

/-- A reading outside the start band (R190). -/
def outsideBand (e : Nat) (r : Reading) : Prop := classifyAwait e r ≠ .inBand

/-- The run of s stops with a refusal or a fault. -/
def Stops (s : State) : Prop := ∃ k, (∃ r, run k s = .refused r) ∨ ∃ f, run k s = .fault f

/-- Fairness for a unit's move m (R241): a run from s comes to a step in which the unit moves, unless the run stops
before. -/
def EventuallyMoves (m : Move) (s : State) : Prop :=
  Stops s ∨ ∃ k t, run k s = .next t ∧ nextEvent t = .move m

/-! ### Time on the line -/

/-- The pulses of a merged segment list: each ON run with the OFF run that follows it. -/
def pulsesOf : List Segment → List (Nat × Nat)
  | ⟨.on, b⟩ :: ⟨.off, d⟩ :: rest => (b, d) :: pulsesOf rest
  | _ => []

/-- The pulses of a telegram on the line: the stop gap is merged with the space before it (R75, R85). -/
def linePulses (k : EncConfig) (c : Byte) : List (Nat × Nat) := pulsesOf (mergeRuns (telegram k c))

/-- The number, on the line, of start pulse i of repetition j, both from 0. -/
def startPulse (k : EncConfig) (j i : Nat) : Nat := k.p + j * (k.s + 24) + i

/-- The number, on the line, of frame bit i of repetition j, both from 0. -/
def bitPulse (k : EncConfig) (j i : Nat) : Nat := startPulse k j k.s + i

/-- The time the line is off at the end of a repetition, `width(fw[0]) + 8*ERR_ENC` (R85, R256, R260, R262). -/
def gapAfterRepetition (k : EncConfig) (c : Byte) : Nat :=
  bitWidth k.err ((frameWordOf k.addr c).getLsbD 0) + 8 * k.err

/-- How long a read is open before its answer is settled, where the line is off for a time and a burst follows: until the
rising edge, or until the burst has ended (R234). -/
def settleTime (off burst : Nat) : TimeoutBasis → Nat
  | .edge => off
  | .whole => off + burst

/-- The guard delay and the processing time end before the first data burst of every repetition: together they are
shorter than the space of the last start pulse (R258). -/
def guardInTime (ke : EncConfig) (kd : DecConfig) (c : Byte) (processing : Nat) : Prop :=
  ∀ j x, j < ke.r → (linePulses ke c)[bitPulse ke j 0 - 1]? = some x → kd.guardDelay + processing < x.2

/-- No read of a frame bit of the telegram times out (R259): each read begins at the end of the burst before it, the first
of a repetition after the guard delay. -/
def bitReadsInTime (ke : EncConfig) (kd : DecConfig) (c : Byte) (b : TimeoutBasis) : Prop :=
  ∀ j i x y, j < ke.r → i < 24 →
    (linePulses ke c)[bitPulse ke j i - 1]? = some x → (linePulses ke c)[bitPulse ke j i]? = some y →
    settleTime (if i = 0 then x.2 - kd.guardDelay else x.2) y.1 b < kd.toBit

/-- The bound of R259 on TO_BIT. -/
def bitTimeoutBound (ke : EncConfig) (kd : DecConfig) : TimeoutBasis → Nat
  | .edge => max (6 * ke.err - kd.guardDelay) (4 * ke.err)
  | .whole => max (6 * ke.err - kd.guardDelay) (4 * ke.err) + 4 * ke.err

/-- No read of AwaitStart inside the telegram times out, for a host that retries at once (R260): a read begins at the end
of a burst. The bound is inclusive, as R260's `TO_START >= 18*ERR` is; what a wait exactly equal to the timeout gives is
not in the source (R259). -/
def startReadsInTime (ke : EncConfig) (kd : DecConfig) (c : Byte) (b : TimeoutBasis) : Prop :=
  ∀ n x y, (linePulses ke c)[n]? = some x → (linePulses ke c)[n + 1]? = some y → settleTime x.2 y.1 b ≤ kd.toStart

end Sys2Proof.Machine
end

