-- ==== Sys2Proof/Certificates/Slice0/Obligations.lean ====
section
/-! DEFINITION. The statements of this model for the provers. Those about one operation give its whole next state, so
that they are its result, its frame and its completion at once. Where they say what a step emits, reads, waits or reports, they
say it of encLog and decLog, the model's record of the actions of R17 (assumption log 2). -/

open Sys2Proof Sys2Proof.Machine

/-! ### The encoder's operations -/

/-- R131: TRANSMIT in IDLE. An accepted command writes every register of the telegram but the carrier, and the encoder is
busy; an ill-formed configuration is recorded and nothing else changes. The entry in encLog is the model's own record of
the action. -/
def Obligations.TransmitFromIdle : Prop :=
  ∀ (c : Byte) (s : State), s.enc.st = .idle →
    (1 ≤ s.cfg.enc.err ∧ 1 ≤ s.cfg.enc.s ∧ 1 ≤ s.cfg.enc.r ∧ s.cfg.enc.tec ≤ 2 * s.cfg.enc.err - 1 →
      ∃ t, exec (.transmit c) s = .next t ∧ encBusy t = true ∧
        t = { s with
          enc := { st := if 0 < s.cfg.enc.p then .pre else .start, ph := .burst, pc := 0, sc := 0, rc := 0, bi := 0,
                   fw := s.cfg.enc.addr ++ c ++ (255#8 - c), carrier := s.enc.carrier }
          encLog := s.encLog ++ [.transmit c] }) ∧
    (¬ (1 ≤ s.cfg.enc.err ∧ 1 ≤ s.cfg.enc.s ∧ 1 ≤ s.cfg.enc.r ∧ s.cfg.enc.tec ≤ 2 * s.cfg.enc.err - 1) →
      exec (.transmit c) s = .next { s with faults := { s.faults with illFormedConfig := true } })

/-- R132: a TRANSMIT while E.st != IDLE is recorded and discarded. -/
def Obligations.TransmitWhileBusyIsDiscarded : Prop :=
  ∀ (c : Byte) (s : State), s.enc.st ≠ .idle →
    exec (.transmit c) s = .next { s with faults := { s.faults with overlappingTransmit := true } }

/-- R133 and R134: the burst and the shortened space of a preamble zero-bit. -/
def Obligations.PreamblePulseSteps : Prop :=
  ∀ s : State, s.enc.st = .pre →
    (s.enc.ph = .burst →
      exec .ePreBurst s = .next { s with
        enc := { s.enc with carrier := .on, ph := .space }
        encLog := s.encLog ++ [.emit ⟨.on, 2 * s.cfg.enc.err⟩] }) ∧
    (s.enc.ph = .space → s.cfg.enc.tec ≤ 2 * s.cfg.enc.err - 1 →
      exec .ePreSpace s = .next { s with
        enc := { s.enc with carrier := .off, ph := .burst, pc := s.enc.pc + 1,
                            st := if s.enc.pc + 1 = s.cfg.enc.p then .start else .pre }
        encLog := s.encLog ++ [.emit ⟨.off, 2 * s.cfg.enc.err - s.cfg.enc.tec⟩] })

/-- R135 and R136: the burst and the space of a start pulse. -/
def Obligations.StartPulseSteps : Prop :=
  ∀ s : State, s.enc.st = .start →
    (s.enc.ph = .burst →
      exec .eStartBurst s = .next { s with
        enc := { s.enc with carrier := .on, ph := .space }
        encLog := s.encLog ++ [.emit ⟨.on, 6 * s.cfg.enc.err⟩] }) ∧
    (s.enc.ph = .space →
      exec .eStartSpace s = .next { s with
        enc := { s.enc with carrier := .off, ph := .burst, sc := s.enc.sc + 1,
                            st := if s.enc.sc + 1 = s.cfg.enc.s then .data else .start,
                            bi := if s.enc.sc + 1 = s.cfg.enc.s then 0 else s.enc.bi }
        encLog := s.encLog ++ [.emit ⟨.off, 6 * s.cfg.enc.err⟩] })

/-- R137 and R138: the burst and the space of frame bit E.bi, which is bit 23 - E.bi of the frame word. -/
def Obligations.DataBitSteps : Prop :=
  ∀ s : State, s.enc.st = .data → s.enc.bi < 24 →
    (s.enc.ph = .burst →
      exec .eDataBurst s = .next { s with
        enc := { s.enc with carrier := .on, ph := .space }
        encLog := s.encLog ++
          [.emit ⟨.on, (if s.enc.fw.getLsbD (23 - s.enc.bi) then 4 else 2) * s.cfg.enc.err⟩] }) ∧
    (s.enc.ph = .space →
      exec .eDataSpace s = .next { s with
        enc := { s.enc with carrier := .off, ph := .burst, bi := s.enc.bi + 1,
                            st := if s.enc.bi = 23 then .stop else .data }
        encLog := s.encLog ++
          [.emit ⟨.off, (if s.enc.fw.getLsbD (23 - s.enc.bi) then 4 else 2) * s.cfg.enc.err⟩] })

/-- R139: the stop gap. After the last repetition the encoder is idle; before it, the next repetition begins. E.ph is
neither read nor written. -/
def Obligations.StopGapEndsARepetition : Prop :=
  ∀ s : State, s.enc.st = .stop →
    (s.enc.rc + 1 = s.cfg.enc.r →
      ∃ t, exec .eStop s = .next t ∧ encBusy t = false ∧
        t = { s with
          enc := { s.enc with carrier := .off, rc := s.enc.rc + 1, st := .idle }
          encLog := s.encLog ++ [.emit ⟨.off, 8 * s.cfg.enc.err⟩] }) ∧
    (s.enc.rc + 1 ≠ s.cfg.enc.r →
      exec .eStop s = .next { s with
        enc := { s.enc with carrier := .off, rc := s.enc.rc + 1, st := .start, sc := 0 }
        encLog := s.encLog ++ [.emit ⟨.off, 8 * s.cfg.enc.err⟩] })

/-- The model's choice (assumption log 6): a symbol row runs the two segment steps of its symbol, with the widths of
R80. -/
def Obligations.SymbolRowsEmitTheirTwoSegments : Prop :=
  ∀ s : State,
    (s.enc.st = .data → s.enc.ph = .burst → s.enc.bi < 24 → s.enc.fw.getLsbD (23 - s.enc.bi) = false →
      exec .symZero s = .next { s with
        enc := { s.enc with carrier := .off, ph := .burst, bi := s.enc.bi + 1,
                            st := if s.enc.bi = 23 then .stop else .data }
        encLog := s.encLog ++ [.emit ⟨.on, 2 * s.cfg.enc.err⟩, .emit ⟨.off, 2 * s.cfg.enc.err⟩] }) ∧
    (s.enc.st = .data → s.enc.ph = .burst → s.enc.bi < 24 → s.enc.fw.getLsbD (23 - s.enc.bi) = true →
      exec .symOne s = .next { s with
        enc := { s.enc with carrier := .off, ph := .burst, bi := s.enc.bi + 1,
                            st := if s.enc.bi = 23 then .stop else .data }
        encLog := s.encLog ++ [.emit ⟨.on, 4 * s.cfg.enc.err⟩, .emit ⟨.off, 4 * s.cfg.enc.err⟩] }) ∧
    (s.enc.st = .start → s.enc.ph = .burst →
      exec .symStart s = .next { s with
        enc := { s.enc with carrier := .off, ph := .burst, sc := s.enc.sc + 1,
                            st := if s.enc.sc + 1 = s.cfg.enc.s then .data else .start,
                            bi := if s.enc.sc + 1 = s.cfg.enc.s then 0 else s.enc.bi }
        encLog := s.encLog ++ [.emit ⟨.on, 6 * s.cfg.enc.err⟩, .emit ⟨.off, 6 * s.cfg.enc.err⟩] }) ∧
    (s.enc.st = .pre → s.enc.ph = .burst → s.cfg.enc.tec ≤ 2 * s.cfg.enc.err - 1 →
      exec .symPre0 s = .next { s with
        enc := { s.enc with carrier := .off, ph := .burst, pc := s.enc.pc + 1,
                            st := if s.enc.pc + 1 = s.cfg.enc.p then .start else .pre }
        encLog := s.encLog ++
          [.emit ⟨.on, 2 * s.cfg.enc.err⟩, .emit ⟨.off, 2 * s.cfg.enc.err - s.cfg.enc.tec⟩] }) ∧
    (s.enc.st = .stop →
      exec .symStop s = .next { s with
        enc := { s.enc with carrier := .off, rc := s.enc.rc + 1,
                            st := if s.enc.rc + 1 = s.cfg.enc.r then .idle else .start,
                            sc := if s.enc.rc + 1 = s.cfg.enc.r then s.enc.sc else 0 }
        encLog := s.encLog ++ [.emit ⟨.off, 8 * s.cfg.enc.err⟩] })

/-- The model's choice (assumption log 9): FRAME_WORD at the encoder is the TRANSMIT that forms the word, at the decoder
the D.READ_BIT that completes it. -/
def Obligations.FrameWordIsFormedAndCompleted : Prop :=
  ∀ (c : Byte) (s : State),
    (s.enc.st = .idle → wellFormedEnc s.cfg.enc = true →
      ∃ t, exec (.frameWord .encoder s.cfg.enc.addr c (255#8 - c)) s = .next t ∧ exec (.transmit c) s = .next t ∧
        t.enc.fw = s.cfg.enc.addr ++ c ++ (255#8 - c)) ∧
    (∀ (a i : Byte) (b : Bool), s.dec.st = .read → s.dec.n = 23 →
      readBit? s.cfg.dec.err (nextAnswer s) = some b → shiftIn s.dec.acc b = a ++ c ++ i →
      ∃ t, exec (.frameWord .decoder a c i) s = .next t ∧ exec .dReadBit s = .next t ∧
        t.dec = { s.dec with st := .done, n := 24, acc := a ++ c ++ i,
                             res := .frame a c i (decide (i = 255#8 - c)) })

/-! ### The decoder's operations -/

/-- R171: RECEIVE in IDLE or DONE. Every decoder register is cleared; an ill-formed configuration is recorded and nothing
else changes. -/
def Obligations.ReceiveFromIdleOrDone : Prop :=
  ∀ s : State, s.dec.st = .idle ∨ s.dec.st = .done →
    (1 ≤ s.cfg.dec.err ∧ 1 ≤ s.cfg.dec.s ∧ 1 ≤ s.cfg.dec.toStart ∧ 1 ≤ s.cfg.dec.toBit →
      ∃ t, exec .receive s = .next t ∧ decBusy t = true ∧
        t = { s with
          dec := { st := .await, sc := 0, tries := 0, n := 0, acc := 0#24, res := .empty }
          decLog := s.decLog ++ [.receive] }) ∧
    (¬ (1 ≤ s.cfg.dec.err ∧ 1 ≤ s.cfg.dec.s ∧ 1 ≤ s.cfg.dec.toStart ∧ 1 ≤ s.cfg.dec.toBit) →
      exec .receive s = .next { s with faults := { s.faults with illFormedConfig := true } })

/-- R172: a RECEIVE while an attempt is in progress is recorded and discarded. -/
def Obligations.ReceiveWhileBusyIsDiscarded : Prop :=
  ∀ s : State, s.dec.st = .await ∨ s.dec.st = .synced ∨ s.dec.st = .read →
    exec .receive s = .next { s with faults := { s.faults with overlappingReceive := true } }

/-- R173: the read budget is spent. With START_TRIES infinite the guard never holds; that the operation is then refused
is the model's choice (assumption log 5). -/
def Obligations.NoStartWhenTheBudgetIsSpent : Prop :=
  ∀ s : State, s.dec.st = .await →
    (s.cfg.dec.startTries = .reads s.dec.tries →
      ∃ t, exec .dNostart s = .next t ∧ decBusy t = false ∧
        t = { s with
          dec := { s.dec with st := .done, res := .noStart }
          decLog := s.decLog ++ [.report .noStart] }) ∧
    (s.cfg.dec.startTries = .unlimited → exec .dNostart s = .refused .notSelected)

/-- R67, R74, R234: each of the two read steps takes the next answer of the channel and no other, and its action is the
read with that answer. That the answers to come are listed in State, and that one past the list is a free value, is the
model's choice (assumption log 4). -/
def Obligations.AReadTakesTheNextAnswer : Prop :=
  (∀ s : State, s.dec.st = .await → triesGuard s = .lt →
    ∃ t, exec .dAwaitRead s = .next t ∧
      (∀ r rs, s.answers = r :: rs → t.answers = rs ∧ t.freeReads = s.freeReads ∧
        t.decLog[s.decLog.length]? = some (.measure s.cfg.dec.toStart r)) ∧
      (s.answers = [] → t.answers = [] ∧ t.freeReads = s.freeReads + 1 ∧
        t.decLog[s.decLog.length]? = some (.measure s.cfg.dec.toStart (Config.channelAnswer s.freeReads)))) ∧
  (∀ s : State, s.dec.st = .read →
    ∃ t, exec .dReadBit s = .next t ∧
      (∀ r rs, s.answers = r :: rs → t.answers = rs ∧ t.freeReads = s.freeReads ∧
        t.decLog[s.decLog.length]? = some (.measure s.cfg.dec.toBit r)) ∧
      (s.answers = [] → t.answers = [] ∧ t.freeReads = s.freeReads + 1 ∧
        t.decLog[s.decLog.length]? = some (.measure s.cfg.dec.toBit (Config.channelAnswer s.freeReads)))) ∧
  (∀ (s : State) (r : Reading) (rs : List Reading), s.answers = r :: rs →
    nextAnswer s = r ∧ dropAnswer s = { s with answers := rs }) ∧
  (∀ s : State, s.answers = [] →
    nextAnswer s = Config.channelAnswer s.freeReads ∧ dropAnswer s = { s with freeReads := s.freeReads + 1 })

/-- R174: one AwaitStart read. In band, the count goes up and the S-th moves to SYNCED at once; a timeout ends the attempt
under the policy; any other reading resets the count. The reading is consumed and counted in every case. -/
def Obligations.AwaitReadCountsStartPulses : Prop :=
  ∀ s : State, s.dec.st = .await → compareBudget s.dec.tries s.cfg.dec.startTries = .lt →
    (∀ d, nextAnswer s = some d → 5 * s.cfg.dec.err ≤ d → d ≤ 7 * s.cfg.dec.err →
      exec .dAwaitRead s = .next { dropAnswer s with
        dec := { s.dec with tries := s.dec.tries + 1, sc := s.dec.sc + 1,
                            st := if s.dec.sc + 1 = s.cfg.dec.s then .synced else .await }
        decLog := s.decLog ++ [.measure s.cfg.dec.toStart (some d)] }) ∧
    (∀ d, nextAnswer s = some d → (d < 5 * s.cfg.dec.err ∨ 7 * s.cfg.dec.err < d) →
      exec .dAwaitRead s = .next { dropAnswer s with
        dec := { s.dec with tries := s.dec.tries + 1, sc := 0 }
        decLog := s.decLog ++ [.measure s.cfg.dec.toStart (some d)] }) ∧
    (nextAnswer s = none → s.cfg.dec.awaitTimeoutEnds = false →
      exec .dAwaitRead s = .next { dropAnswer s with
        dec := { s.dec with tries := s.dec.tries + 1, sc := 0 }
        decLog := s.decLog ++ [.measure s.cfg.dec.toStart none] }) ∧
    (nextAnswer s = none → s.cfg.dec.awaitTimeoutEnds = true →
      exec .dAwaitRead s = .next { dropAnswer s with
        dec := { s.dec with tries := s.dec.tries + 1, st := .done, res := .noStart }
        decLog := s.decLog ++ [.measure s.cfg.dec.toStart none, .report .noStart] })

/-- R175: the guard delay. No reading is consumed. -/
def Obligations.GuardWaitsAndEntersReading : Prop :=
  ∀ s : State, s.dec.st = .synced →
    exec .dGuard s = .next { s with
      dec := { s.dec with st := .read, n := 0, acc := 0#24 }
      decLog := s.decLog ++ [.wait s.cfg.dec.guardDelay] }

/-- R176, R177, R180, R181: one ReadingBits read. A timeout and a duration outside the bit bands abort and discard every
bit; any other reading shifts one bit in at bit 0, and the 24th reports the frame in the same step. -/
def Obligations.ReadBitAccumulatesAbortsOrCompletes : Prop :=
  ∀ s : State, s.dec.st = .read →
    (∀ r, nextAnswer s = r → (r = none ∨ ∃ d, r = some d ∧ (d < s.cfg.dec.err ∨ 5 * s.cfg.dec.err < d)) →
      ∃ t, exec .dReadBit s = .next t ∧ decBusy t = false ∧
        t = { dropAnswer s with
          dec := { s.dec with st := .done, n := 0, acc := 0#24, res := .incomplete }
          decLog := s.decLog ++ [.measure s.cfg.dec.toBit r, .report .incomplete] }) ∧
    (∀ (d : Nat) (b : Bool) (v : Frame24), nextAnswer s = some d → s.cfg.dec.err ≤ d → d ≤ 5 * s.cfg.dec.err →
      b = decide (3 * s.cfg.dec.err < d) → v = ((s.dec.acc <<< 1) ||| (if b then 1#24 else 0#24)) →
      (s.dec.n + 1 ≠ 24 →
        exec .dReadBit s = .next { dropAnswer s with
          dec := { s.dec with n := s.dec.n + 1, acc := v }
          decLog := s.decLog ++ [.measure s.cfg.dec.toBit (some d)] }) ∧
      (s.dec.n + 1 = 24 → ∀ a c i : Byte, v = a ++ c ++ i →
        ∃ t, exec .dReadBit s = .next t ∧ decBusy t = false ∧
          t = { dropAnswer s with
            dec := { s.dec with st := .done, n := 24, acc := v, res := .frame a c i (decide (i = 255#8 - c)) }
            decLog := s.decLog ++ [.measure s.cfg.dec.toBit (some d),
              .report (.frame a c i (decide (i = 255#8 - c)))] }))

/-- The model's choice (assumption log 7): a class row is the decoder's read step where the next answer lies in the
class. Each of the eight completes with what its read step does. -/
def Obligations.ClassRowsAreReadSteps : Prop :=
  ∀ (s : State) (d : Nat),
    (s.dec.st = .await → triesGuard s = .lt →
      (nextAnswer s = some d → 5 * s.cfg.dec.err ≤ d → d ≤ 7 * s.cfg.dec.err →
        ∃ t, exec (.awIn d) s = .next t ∧ exec .dAwaitRead s = .next t ∧ t.dec.sc = s.dec.sc + 1) ∧
      (nextAnswer s = some d → (d < 5 * s.cfg.dec.err ∨ 7 * s.cfg.dec.err < d) →
        ∃ t, exec (.awOut d) s = .next t ∧ exec .dAwaitRead s = .next t ∧ t.dec.sc = 0) ∧
      (nextAnswer s = none →
        ∃ t, exec .awTimeout s = .next t ∧ exec .dAwaitRead s = .next t ∧
          (t.dec.st = .done ↔ s.cfg.dec.awaitTimeoutEnds = true))) ∧
    (s.dec.st = .read →
      (nextAnswer s = none →
        ∃ t, exec .rbTimeout s = .next t ∧ exec .dReadBit s = .next t ∧ t.dec.res = .incomplete) ∧
      (nextAnswer s = some d → d < s.cfg.dec.err →
        ∃ t, exec (.rbAbortShort d) s = .next t ∧ exec .dReadBit s = .next t ∧ t.dec.res = .incomplete) ∧
      (nextAnswer s = some d → s.cfg.dec.err ≤ d → 5 * s.cfg.dec.err < d →
        ∃ t, exec (.rbAbortLong d) s = .next t ∧ exec .dReadBit s = .next t ∧ t.dec.res = .incomplete) ∧
      (nextAnswer s = some d → 3 * s.cfg.dec.err < d → d ≤ 5 * s.cfg.dec.err →
        ∃ t, exec (.rbOne d) s = .next t ∧ exec .dReadBit s = .next t ∧ t.dec.n = s.dec.n + 1 ∧
          t.dec.acc = shiftIn s.dec.acc true) ∧
      (nextAnswer s = some d → s.cfg.dec.err ≤ d → d ≤ 3 * s.cfg.dec.err →
        ∃ t, exec (.rbZero d) s = .next t ∧ exec .dReadBit s = .next t ∧ t.dec.n = s.dec.n + 1 ∧
          t.dec.acc = shiftIn s.dec.acc false))

/-- The model's choice (assumption log 8): a result row is the decoder step that writes that result. Each of the five
completes with what that step does. -/
def Obligations.ResultRowsAreReportingSteps : Prop :=
  ∀ s : State,
    (∀ (a c i : Byte) (b : Bool), s.dec.st = .read → s.dec.n = 23 →
      readBit? s.cfg.dec.err (nextAnswer s) = some b → shiftIn s.dec.acc b = a ++ c ++ i →
      (i = 255#8 - c →
        ∃ t, exec (.frameValidTrue a c i) s = .next t ∧ exec .dReadBit s = .next t ∧
          t.dec.st = .done ∧ t.dec.res = .frame a c i true) ∧
      (i ≠ 255#8 - c →
        ∃ t, exec (.frameValidFalse a c i) s = .next t ∧ exec .dReadBit s = .next t ∧
          t.dec.st = .done ∧ t.dec.res = .frame a c i false)) ∧
    (s.dec.st = .read → readBit? s.cfg.dec.err (nextAnswer s) = none →
      ∃ t, exec .incomplete s = .next t ∧ exec .dReadBit s = .next t ∧
        t.dec.st = .done ∧ t.dec.res = .incomplete) ∧
    (s.dec.st = .await → s.cfg.dec.startTries = .reads s.dec.tries →
      ∃ t, exec .noStart s = .next t ∧ exec .dNostart s = .next t ∧ t.dec.st = .done ∧ t.dec.res = .noStart) ∧
    (s.dec.st = .await → triesGuard s = .lt → nextAnswer s = none → s.cfg.dec.awaitTimeoutEnds = true →
      ∃ t, exec .noStart s = .next t ∧ exec .dAwaitRead s = .next t ∧ t.dec.st = .done ∧ t.dec.res = .noStart) ∧
    (decBusy s = false → wellFormedDec s.cfg.dec = true →
      ∃ t, exec .empty s = .next t ∧ exec .receive s = .next t ∧ t.dec.res = .empty)

/-! ### The host's pseudo-operation and the reset event -/

/-- R97: TXKEY k is exactly TRANSMIT with c = REGISTRY(k), for k in KEY1..KEY5 and in every state, busy or ill formed
included; any other key is refused. -/
def Obligations.TxkeyIsTransmitOfTheRegistry : Prop :=
  ∀ (k : Nat) (s : State),
    (∀ c : Byte,
      (k = 1 ∧ c = s.cfg.enc.registry.key1) ∨ (k = 2 ∧ c = s.cfg.enc.registry.key2) ∨
      (k = 3 ∧ c = s.cfg.enc.registry.key3) ∨ (k = 4 ∧ c = s.cfg.enc.registry.key4) ∨
      (k = 5 ∧ c = s.cfg.enc.registry.key5) →
      ∃ t, exec (.txkey k) s = .next t ∧ exec (.transmit c) s = .next t ∧
        (s.enc.st = .idle → wellFormedEnc s.cfg.enc = true →
          t.enc.fw = s.cfg.enc.addr ++ c ++ (255#8 - c) ∧ encBusy t = true)) ∧
    (k = 0 ∨ 5 < k → exec (.txkey k) s = .refused (.unknownKey k))

/-- R250: RESET in any state writes every encoder and decoder register, with setCarrier(false), and leaves the
configuration and the fault record. The registers of a run's first state are those RESET gives. -/
def Obligations.ResetWritesEveryRegister : Prop :=
  (∀ s : State,
    exec .reset s = .next { s with
      enc := { st := .idle, ph := .burst, pc := 0, sc := 0, rc := 0, bi := 0, fw := 0x000000#24, carrier := .off }
      dec := { st := .idle, sc := 0, tries := 0, n := 0, acc := 0x000000#24, res := .empty }
      encLog := s.encLog ++ [.setCarrier false] }) ∧
  (∀ s t : State, exec .reset s = .next t → State.reset.enc = t.enc ∧ State.reset.dec = t.dec)

/-- The model's choice (assumption log 5): an operation is refused exactly where its selector does not hold. -/
def Obligations.OperationsAreRefusedOffTheirSelector : Prop :=
  ∀ s : State,
    (exec .ePreBurst s = .refused .notSelected ↔ ¬ (s.enc.st = .pre ∧ s.enc.ph = .burst)) ∧
    (exec .ePreSpace s = .refused .notSelected ↔ ¬ (s.enc.st = .pre ∧ s.enc.ph = .space)) ∧
    (exec .eStartBurst s = .refused .notSelected ↔ ¬ (s.enc.st = .start ∧ s.enc.ph = .burst)) ∧
    (exec .eStartSpace s = .refused .notSelected ↔ ¬ (s.enc.st = .start ∧ s.enc.ph = .space)) ∧
    (exec .eDataBurst s = .refused .notSelected ↔ ¬ (s.enc.st = .data ∧ s.enc.ph = .burst)) ∧
    (exec .eDataSpace s = .refused .notSelected ↔ ¬ (s.enc.st = .data ∧ s.enc.ph = .space)) ∧
    (exec .eStop s = .refused .notSelected ↔ ¬ (s.enc.st = .stop)) ∧
    (exec .dNostart s = .refused .notSelected ↔ ¬ (s.dec.st = .await ∧ s.cfg.dec.startTries = .reads s.dec.tries)) ∧
    (exec .dAwaitRead s = .refused .notSelected ↔
      ¬ (s.dec.st = .await ∧ ∀ n, s.cfg.dec.startTries = .reads n → s.dec.tries < n)) ∧
    (exec .dGuard s = .refused .notSelected ↔ ¬ (s.dec.st = .synced)) ∧
    (exec .dReadBit s = .refused .notSelected ↔ ¬ (s.dec.st = .read))

/-! ### The protocol definition -/

/-- R91 and R92: the classes of a reading in AwaitStart and in ReadingBits, the tests of R92 in the order listed. R91 marks
its closed ends "from general knowledge, not in source". -/
def Obligations.ReadingsFallInTheirClasses : Prop :=
  ∀ (e : Nat) (r : Reading),
    (classifyAwait e r = .inBand ↔ ∃ d, r = some d ∧ 5 * e ≤ d ∧ d ≤ 7 * e) ∧
    (classifyAwait e r = .timeout ↔ r = none) ∧
    (classifyAwait e r = .outOfBand ↔ ∃ d, r = some d ∧ (d < 5 * e ∨ d > 7 * e)) ∧
    (classifyRead e r = .timeout ↔ r = none) ∧
    (classifyRead e r = .abortShort ↔ ∃ d, r = some d ∧ d < e) ∧
    (classifyRead e r = .abortLong ↔ ∃ d, r = some d ∧ ¬ d < e ∧ d > 5 * e) ∧
    (classifyRead e r = .one ↔ ∃ d, r = some d ∧ 3 * e < d ∧ d ≤ 5 * e) ∧
    (classifyRead e r = .zero ↔ ∃ d, r = some d ∧ e ≤ d ∧ d ≤ 3 * e)

/-- R120: two base units interoperate exactly when 5*Ed <= 6*Ee <= 7*Ed. -/
def Obligations.TwoBaseUnitsInteroperate : Prop :=
  ∀ ee ed : Nat, 1 ≤ ee → 1 ≤ ed →
    ((classifyAwait ed (some (2 * ee)) = .outOfBand ∧ classifyAwait ed (some (6 * ee)) = .inBand ∧
      classifyRead ed (some (2 * ee)) = .zero ∧ classifyRead ed (some (4 * ee)) = .one) ↔
        (5 * ed ≤ 6 * ee ∧ 6 * ee ≤ 7 * ed)) ∧
    (5 * ed ≤ 6 * ee → 6 * ee ≤ 7 * ed →
      ed ≤ 2 * ee ∧ 2 * ee ≤ 3 * ed ∧ 3 * ed < 4 * ee ∧ 4 * ee ≤ 5 * ed) ∧
    (ee = ed → 5 * ed ≤ 6 * ee ∧ 6 * ee ≤ 7 * ed)

/-- R116: the laws of the complement, and the validity test as an equality of bytes. -/
def Obligations.ComplementLaws : Prop :=
  ∀ c : Byte,
    complement c = 255#8 - c ∧ complement c = c ^^^ 0xFF#8 ∧ complement (complement c) = c ∧
    c.toNat + (complement c).toNat = 255 ∧ popcount c + popcount (complement c) = 8 ∧
    ∀ i : Byte, validFlag c i = true ↔ i = 255#8 - c

/-- R63, R64, R65: position k of the wire carries frame-word bit 23 - k, and so the bits of the address, the command and
the inverse command, each most significant bit first. -/
def Obligations.WireOrderOfTheFrame : Prop :=
  ∀ (a c i : Byte) (k : Nat), k < 24 →
    frameBit (packFrame a c i) k =
      if k < 8 then a.getLsbD (7 - k) else if k < 16 then c.getLsbD (15 - k) else i.getLsbD (23 - k)

/-- R184: a register that starts at 1 and takes `(acc25 << 1) | b` on each bit holds 2^n + D.acc after n bits, and its
bit 24 is set exactly when 24 bits are in. -/
def Obligations.SentinelEquivalence : Prop :=
  ∀ bs : List Bool, bs.length ≤ 24 →
    let acc25 := bs.foldl (fun x b => 2 * x + (if b then 1 else 0)) 1
    acc25 = 2 ^ bs.length + (bs.foldl shiftIn 0#24).toNat ∧ (acc25.testBit 24 = true ↔ bs.length = 24)

/-- R258, R259 and R260 on the telegram as it stands on the line. First, every burst of it with the OFF run that follows:
`2*ERR - TEC` in the preamble, `6*ERR` after a start pulse, the bit's own width after a frame bit, and the gap after the
last bit of a repetition. Then what follows from it: R259's bounds on TO_BIT, R258's on the guard delay, and with matched
ERR and the default timeouts, that no bit read times out, that a host that retries at once loses no start pulse under
EDGE and loses one under WHOLE, where `18*ERR` is enough. -/
def Obligations.TimeoutsInsideATelegram : Prop :=
  ∀ (ke : EncConfig) (kd : DecConfig) (c : Byte), wellFormedEnc ke = true →
    (linePulses ke c).length = ke.p + ke.r * (ke.s + 24) ∧
    (∀ i, i < ke.p → (linePulses ke c)[i]? = some (2 * ke.err, 2 * ke.err - ke.tec)) ∧
    (∀ j i, j < ke.r → i < ke.s → (linePulses ke c)[startPulse ke j i]? = some (6 * ke.err, 6 * ke.err)) ∧
    (∀ j i, j < ke.r → i < 24 → ∀ w, w = bitWidth ke.err (frameBit (frameWordOf ke.addr c) i) →
      (linePulses ke c)[bitPulse ke j i]? = some (w, if i = 23 then gapAfterRepetition ke c else w)) ∧
    (∀ b, bitTimeoutBound ke kd b < kd.toBit → bitReadsInTime ke kd c b) ∧
    (∀ processing, guardInTime ke kd c processing ↔ kd.guardDelay + processing < 6 * ke.err) ∧
    (kd.err = ke.err →
      (kd.guardDelay = 2 * kd.err → ∀ processing, guardInTime ke kd c processing ↔ processing < 4 * ke.err) ∧
      (kd.guardDelay = 2 * kd.err → kd.toBit = 10 * kd.err → ∀ b, bitReadsInTime ke kd c b) ∧
      (kd.toStart = 14 * kd.err → startReadsInTime ke kd c .edge) ∧
      (kd.toStart = 14 * kd.err → 1 < ke.r → ¬ startReadsInTime ke kd c .whole) ∧
      (18 * kd.err ≤ kd.toStart → startReadsInTime ke kd c .whole))

/-! ### Encoding -/

/-- Decode and encode agree: every well-formed instruction of every build, with every operand. -/
def Obligations.DecodeOfEncodeIsTheInstruction : Prop :=
  ∀ (b : Build) (i : Instr), wellFormed b i = true → decode b (encode b i) = .ok i

/-- The decoder answers with well-formed instructions only. The symbols have distinct widths only in a well-formed encoder
configuration. -/
def Obligations.DecodedInstructionsAreWellFormed : Prop :=
  ∀ (b : Build) (c : Code) (i : Instr), wellFormedEnc b.enc = true → decode b c = .ok i → wellFormed b i = true

/-- A few words written out from R95 and R96. That 8 bits are read as an ENC_SEL word, in the last clause, is the model's
choice (assumption log 10). -/
def Obligations.SelectorWordsDecode : Prop :=
  decodeEncSel 0b0000#4 (some 0x5A#8) = .ok (.transmit 0x5A#8) ∧
  decodeEncSel 0b0011#4 none = .ok .ePreSpace ∧
  decodeEncSel 0b0110#4 none = .ok .eDataBurst ∧
  decodeEncSel 0b1001#4 none = .ok .eStop ∧
  decodeEncSel 0b1010#4 none = .rejected .unusedState ∧
  decodeDecSel 0b100#3 true .lt = .ok .receive ∧
  decodeDecSel 0b001#3 false .eq = .ok .dNostart ∧
  decodeDecSel 0b001#3 false .lt = .ok .dAwaitRead ∧
  decodeDecSel 0b011#3 false .lt = .ok .dReadBit ∧
  decodeTableWord 8 0b0101 = some .eStartSpace

/-- R95 and R96: a unit that moves runs the one operation its registers select. A host request runs its operation in every
state of the units: R95 and R96 name the idle states, R132 and R172 give the busy ones, and that both are one operation is
the model's reading (assumption log 23). That the moves to come are listed in State is the model's choice (assumption
log 3). -/
def Obligations.EveryMoveRunsItsSelectedOperation : Prop :=
  ∀ (s : State) (evs : List Event),
    (s.events = .move .encoder :: evs →
      (s.enc.st = .pre → s.enc.ph = .burst → step s = exec .ePreBurst { s with events := evs }) ∧
      (s.enc.st = .pre → s.enc.ph = .space → step s = exec .ePreSpace { s with events := evs }) ∧
      (s.enc.st = .start → s.enc.ph = .burst → step s = exec .eStartBurst { s with events := evs }) ∧
      (s.enc.st = .start → s.enc.ph = .space → step s = exec .eStartSpace { s with events := evs }) ∧
      (s.enc.st = .data → s.enc.ph = .burst → step s = exec .eDataBurst { s with events := evs }) ∧
      (s.enc.st = .data → s.enc.ph = .space → step s = exec .eDataSpace { s with events := evs }) ∧
      (s.enc.st = .stop → step s = exec .eStop { s with events := evs })) ∧
    (s.events = .move .decoder :: evs →
      (s.dec.st = .await → s.cfg.dec.startTries = .reads s.dec.tries →
        step s = exec .dNostart { s with events := evs }) ∧
      (s.dec.st = .await → (∀ n, s.cfg.dec.startTries = .reads n → s.dec.tries < n) →
        step s = exec .dAwaitRead { s with events := evs }) ∧
      (s.dec.st = .synced → step s = exec .dGuard { s with events := evs }) ∧
      (s.dec.st = .read → step s = exec .dReadBit { s with events := evs })) ∧
    (∀ c, s.events = .move (.host (.transmit c)) :: evs → step s = exec (.transmit c) { s with events := evs }) ∧
    (∀ k, s.events = .move (.host (.txkey k)) :: evs → 1 ≤ k → k ≤ 5 →
      step s = exec (.txkey k) { s with events := evs }) ∧
    (s.events = .move (.host .receive) :: evs → step s = exec .receive { s with events := evs }) ∧
    (s.events = .move (.host .reset) :: evs → step s = exec .reset { s with events := evs })

/-- Where the fetched code decodes to i, step takes the event and runs i. The model's choice (assumption log 3): the event
is the next one listed, else the first of a free round of moves, and the rest of that round is then listed. -/
def Obligations.StepRunsTheDecodedInstruction : Prop :=
  ∀ (s : State) (i : Instr), decode s.cfg (fetchCode s) = .ok i →
    step s = exec i (dropEvent s) ∧
    (∀ ev evs, s.events = ev :: evs → fetchCode s = eventCode s ev ∧ dropEvent s = { s with events := evs }) ∧
    (s.events = [] → ∃ m ms, roundMoves (Config.environment s.freeRounds) = m :: ms ∧
      fetchCode s = eventCode s (.move m) ∧
      dropEvent s = { s with events := ms.map .move, freeRounds := s.freeRounds + 1 })

/-- R130, R170, R243: an idle unit that gets no request takes no step. That its move is then a step of the model which
changes only the list of events is the model's choice (assumption log 13). -/
def Obligations.AnIdleUnitTakesNoStep : Prop :=
  ∀ (s : State) (evs : List Event),
    (s.events = .move .encoder :: evs → s.enc.st = .idle → step s = .next { s with events := evs }) ∧
    (s.events = .move .decoder :: evs → s.dec.st = .idle ∨ s.dec.st = .done → step s = .next { s with events := evs })

/-! ### Invariants and whole-machine rules -/

/-- The state right after reset is good, in every configuration. -/
def Obligations.ResetStateIsGood : Prop :=
  Inv State.reset ∧ ∀ b : Build, Inv (State.resetOf b)

/-- Every step keeps the invariant: the counters stay within their bounds (R117), the carrier agrees with the sequencer
(R40, R145), the frame word of a busy encoder is ADDR, c, ~c for some c (R86), the accumulator holds no bit above those
collected (R184), the result agrees with the state (R47, R186). And a step that leaves a busy encoder busy leaves its frame
word, so that it stays the one its TRANSMIT formed (R39). -/
def Obligations.EveryStepKeepsTheInvariant : Prop :=
  ∀ s t : State, step s = .next t →
    (Inv s → Inv t) ∧ (s.enc.st ≠ .idle → t.enc.st ≠ .idle → t.enc.fw = s.enc.fw)

/-- In a good state every move of a unit has a next state (R222, R223), and the moves of both units keep coming (R241): a
run from any state comes to a move of the encoder and to one of the decoder, unless a host request or a code given as it
stands stops it. That an idle unit's move answers a next state is the model's choice (assumption log 13), and so is the
order of moves as a list and then free rounds (assumption log 3). -/
def Obligations.AUnitAlwaysHasANextState : Prop :=
  (∀ (s : State) (evs : List Event), Inv s → s.events = .move .encoder :: evs ∨ s.events = .move .decoder :: evs →
    ∃ t, step s = .next t ∧ t.faults = s.faults ∧ t.events = evs) ∧
  (∀ s : State, EventuallyMoves .encoder s ∧ EventuallyMoves .decoder s)

/-- "Nothing in the core is fatal": no operation stops with a fault, in any state. -/
def Obligations.NoOperationIsFatal : Prop :=
  ∀ (i : Instr) (s : State) (f : Fault), exec i s ≠ .fault f

/-- R31, R32, R253: no operation writes a configuration register. -/
def Obligations.ConfigurationIsNeverWritten : Prop :=
  ∀ (i : Instr) (s t : State), exec i s = .next t → t.cfg = s.cfg

/-- R50, R220, R222: no operation removes a fault name, RESET included, and only TRANSMIT, TXKEY and RECEIVE add one. -/
def Obligations.FaultsAreNeverRemoved : Prop :=
  ∀ (i : Instr) (s t : State), exec i s = .next t →
    (∀ f, faultRecorded s.faults f = true → faultRecorded t.faults f = true) ∧
    (t.faults ≠ s.faults → (∃ c, i = .transmit c) ∨ (∃ k, i = .txkey k) ∨ i = .receive)

/-- R220: "No step reads `faults`". Whatever the record holds, an operation does the same as with an empty record, and adds
the same names; and an operation refused under one record is refused in the same way under every record. -/
def Obligations.NoOperationReadsTheFaultRecord : Prop :=
  (∀ (i : Instr) (s t : State), exec i { s with faults := FaultRecord.none } = .next t →
    ∀ f : FaultRecord, ∃ g : FaultRecord,
      exec i { s with faults := f } = .next { t with faults := g } ∧
      ∀ x, faultRecorded g x = (faultRecorded f x || faultRecorded t.faults x)) ∧
  (∀ (i : Instr) (s : State) (f g : FaultRecord) (r : Refusal),
    exec i { s with faults := f } = .refused r → exec i { s with faults := g } = .refused r)

/-- R170: no decoder operation writes encoder state, and no encoder operation writes decoder state. RESET, which acts on
both units, is neither. -/
def Obligations.UnitsDoNotWriteEachOther : Prop :=
  ∀ (i : Instr) (s t : State), exec i s = .next t →
    (actsOnDecoder i = false → t.dec = s.dec ∧ t.decLog = s.decLog ∧ t.answers = s.answers ∧ t.freeReads = s.freeReads) ∧
    (actsOnEncoder i = false → t.enc = s.enc ∧ t.encLog = s.encLog)

/-- R225: an encoder operation and a decoder operation that are both possible give the same state in either order. -/
def Obligations.OrderOfUnitsChangesNoOutcome : Prop :=
  ∀ (i j : Instr) (s s₁ s₂ : State), actsOnDecoder i = false → actsOnEncoder j = false →
    exec i s = .next s₁ → exec j s = .next s₂ →
    ∃ t, exec j s₁ = .next t ∧ exec i s₂ = .next t

/-- R142, R254: an accepted TRANSMIT leaves the same encoder registers whatever an earlier telegram left, and so does one
after a RESET; an accepted RECEIVE leaves the same decoder registers. Only E.carrier is not written, and it is OFF in
every good idle encoder. -/
def Obligations.NoStatePersistsBetweenCalls : Prop :=
  ∀ (s u : State), s.cfg = u.cfg →
    (∀ c, EncInv s → EncInv u → s.enc.st = .idle → u.enc.st = .idle → wellFormedEnc s.cfg.enc = true →
      ∃ s' u', exec (.transmit c) s = .next s' ∧ exec (.transmit c) u = .next u' ∧ s'.enc = u'.enc) ∧
    (decBusy s = false → decBusy u = false → wellFormedDec s.cfg.dec = true →
      ∃ s' u', exec .receive s = .next s' ∧ exec .receive u = .next u' ∧ s'.dec = u'.dec)

/-! ### The telegram -/

/-- R140, R141: from TRANSMIT c the encoder emits exactly segs(c), in 2*P + R*(2*S_ENC + 49) segment steps and no fewer,
and then is idle again with the line off. -/
def Obligations.ATelegramIsExactlySegs : Prop :=
  ∀ (c : Byte) (s : State), s.enc.st = .idle → wellFormedEnc s.cfg.enc = true →
    let n := 2 * s.cfg.enc.p + s.cfg.enc.r * (2 * s.cfg.enc.s + 49)
    let s₀ := { s with events := .move (.host (.transmit c)) :: List.replicate n (.move .encoder) ++ s.events }
    (∃ t, run (n + 1) s₀ = .next t ∧ t.enc.st = .idle ∧ t.enc.carrier = .off ∧
      emittedSegments t.encLog = emittedSegments s.encLog ++ telegram s.cfg.enc c ∧
      t.dec = s.dec ∧ t.faults = s.faults ∧ t.events = s.events) ∧
    (∀ j, j < n → ∃ u, run (j + 1) s₀ = .next u ∧ u.enc.st ≠ .idle)

/-- R90: the number of segments of a telegram. -/
def Obligations.TelegramHasItsNumberOfSegments : Prop :=
  ∀ (k : EncConfig) (c : Byte), (telegram k c).length = 2 * k.p + k.r * (2 * k.s + 49)

/-- R266: the duration of a telegram and the time its carrier is ON. Neither depends on the command. -/
def Obligations.TelegramDuration : Prop :=
  ∀ (k : EncConfig) (c : Byte), wellFormedEnc k = true →
    duration (telegram k c) =
      k.p * (4 * k.err - k.tec) + k.r * (12 * k.err * k.s + 136 * k.err + 4 * k.err * popcount k.addr) ∧
    onTime (telegram k c) =
      2 * k.err * k.p + k.r * (6 * k.err * k.s + 64 * k.err + 2 * k.err * popcount k.addr)

/-- R76: the readings of a telegram over the ideal channel. -/
def Obligations.IdealReadingsOfATelegram : Prop :=
  ∀ (k : EncConfig) (c : Byte) (n : Nat),
    idealReadings (telegram k c) n =
      preReadings k.err k.p ++
      repeated k.r (startReadings k.err k.s ++ frameReadings k.err (frameWordOf k.addr c)) ++
      List.replicate n none

/-- R223: from every good state of the encoder, IDLE is reached within 2*P + R*(2*S_ENC + 49) of its own steps. -/
def Obligations.TheEncoderAlwaysReachesIdle : Prop :=
  ∀ s : State, EncInv s →
    ∃ (m : Nat) (t : State), m ≤ 2 * s.cfg.enc.p + s.cfg.enc.r * (2 * s.cfg.enc.s + 49) ∧
      run m (encoderMoves m s) = .next t ∧ t.enc.st = .idle

/-! ### The attempt -/

/-- R223: from every good state of a busy decoder with a finite budget, DONE is reached within START_TRIES + 1 + 24 of its
own steps, whatever the channel answers. -/
def Obligations.AnAttemptAlwaysEnds : Prop :=
  ∀ (s : State) (n : Nat), DecInv s → decBusy s = true → s.cfg.dec.startTries = .reads n →
    ∃ (m : Nat) (t : State), m ≤ n + 1 + 24 ∧ run m (decoderMoves m s) = .next t ∧ t.dec.st = .done

/-- R185: the step sequence from RECEIVE to DONE reports exactly decode(rs), and consumes the same answers. Where the
answers listed end before decode does, the attempt is still in progress when it has consumed them. -/
def Obligations.AnAttemptReportsDecode : Prop :=
  ∀ (s : State) (rs : List Reading), decBusy s = false → wellFormedDec s.cfg.dec = true →
    (∀ (x : Result) (used : Nat), decodeAttempt s.cfg.dec rs = .result x used →
      ∃ (m : Nat) (t : State),
        run (m + 1) { s with
          events := .move (.host .receive) :: List.replicate m (.move .decoder) ++ s.events
          answers := rs } = .next t ∧
        t.dec.st = .done ∧ t.dec.res = x ∧ t.answers = rs.drop used ∧ used ≤ rs.length ∧
        t.enc = s.enc ∧ t.faults = s.faults) ∧
    (decodeAttempt s.cfg.dec rs = .pending →
      ∃ (m : Nat) (t : State),
        run (m + 1) { s with
          events := .move (.host .receive) :: List.replicate m (.move .decoder) ++ s.events
          answers := rs } = .next t ∧
        decBusy t = true ∧ t.answers = [] ∧ t.enc = s.enc ∧ t.faults = s.faults)

/-- R187: the round trip, over the ideal channel, at every pair of base units that interoperate. -/
def Obligations.RoundTrip : Prop :=
  ∀ (ke : EncConfig) (kd : DecConfig) (c : Byte) (n : Nat),
    wellFormedEnc ke = true → wellFormedDec kd = true → interoperable ke.err kd.err → kd.s = ke.s →
    budgetAtLeast (ke.p + ke.s) kd.startTries →
    decodeAttempt kd (idealReadings (telegram ke c) n) =
      .result (.frame ke.addr c (255#8 - c) true) (ke.p + ke.s + 24)

/-- R187 in the machine: what the encoder emits, the decoder receives. -/
def Obligations.TheDecoderReceivesWhatTheEncoderSends : Prop :=
  ∀ (c : Byte) (s : State), s.enc.st = .idle → decBusy s = false → wellFormedEnc s.cfg.enc = true →
    wellFormedDec s.cfg.dec = true → interoperable s.cfg.enc.err s.cfg.dec.err → s.cfg.dec.s = s.cfg.enc.s →
    budgetAtLeast (s.cfg.enc.p + s.cfg.enc.s) s.cfg.dec.startTries →
    ∃ (n m : Nat) (t u : State),
      run (n + 1) { s with events := .move (.host (.transmit c)) :: List.replicate n (.move .encoder) } = .next t ∧
      t.enc.st = .idle ∧
      run (m + 1) { t with
        events := .move (.host .receive) :: List.replicate m (.move .decoder)
        answers := idealReadings (emittedSegments (t.encLog.drop s.encLog.length)) 0 } = .next u ∧
      u.dec.st = .done ∧ u.dec.res = .frame s.cfg.enc.addr c (255#8 - c) true

/-- R188: S start readings and then the 24 nominal bit readings of a, c, i give the frame a, c, i, valid exactly when i is
the complement of c, whatever the address. -/
def Obligations.InverseCheck : Prop :=
  ∀ (k : DecConfig) (a c i : Byte) (rs : List Reading), wellFormedDec k = true → budgetAtLeast k.s k.startTries →
    decodeAttempt k (startReadings k.err k.s ++ frameReadings k.err (packFrame a c i) ++ rs) =
      .result (.frame a c i (decide (i = 255#8 - c))) (k.s + 24)

/-- R189, for every number of bits below 24: S in-band readings, then m bit readings, then `none`, gives Incomplete. -/
def Obligations.TruncationIsIncomplete : Prop :=
  ∀ (k : DecConfig) (starts bits rs : List Reading), wellFormedDec k = true → budgetAtLeast k.s k.startTries →
    starts.length = k.s → (∀ r ∈ starts, classifyAwait k.err r = .inBand) →
    bits.length < 24 → (∀ r ∈ bits, ∃ b, readBit? k.err r = some b) →
    decodeAttempt k (starts ++ bits ++ none :: rs) = .result .incomplete (k.s + bits.length + 1)

/-- R190: answers none of which is in the start band never leave AwaitStart. With a finite budget the attempt reports
NoStart after exactly START_TRIES reads, and with none it does not end. Under AWAIT_TIMEOUT_ENDS_ATTEMPT a `none` ends it
earlier (R174), so there the answers are durations. -/
def Obligations.NoStartOutsideTheBand : Prop :=
  ∀ (k : DecConfig) (rs : List Reading), (∀ r ∈ rs, outsideBand k.err r) →
    (k.awaitTimeoutEnds = false ∨ none ∉ rs) →
    (∀ n, k.startTries = .reads n → n ≤ rs.length → decodeAttempt k rs = .result .noStart n) ∧
    (k.startTries = .unlimited → decodeAttempt k rs = .pending)

/-- R192: any number of preamble readings before S in-band readings does not prevent sync on those. -/
def Obligations.PreambleTolerance : Prop :=
  ∀ (k : DecConfig) (m : Nat) (starts rs : List Reading), wellFormedDec k = true →
    budgetAtLeast (m + k.s) k.startTries →
    starts.length = k.s → (∀ r ∈ starts, classifyAwait k.err r = .inBand) →
    decodeAttempt k (preReadings k.err m ++ starts ++ rs) = readLoop k 0 0#24 (m + k.s) rs

/-- R193 for the first attempt on a telegram, with matched ERR: with S_DEC below S_ENC the reading after sync is a start
pulse and aborts; with S_DEC above S_ENC the attempt does not sync. -/
def Obligations.StartCountMismatch : Prop :=
  ∀ (ke : EncConfig) (kd : DecConfig) (c : Byte) (n : Nat), wellFormedEnc ke = true → wellFormedDec kd = true →
    kd.err = ke.err →
    (kd.s < ke.s → budgetAtLeast (ke.p + kd.s) kd.startTries →
      decodeAttempt kd (idealReadings (telegram ke c) n) = .result .incomplete (ke.p + kd.s + 1)) ∧
    (ke.s < kd.s →
      decodeAttempt kd (idealReadings (telegram ke c) n) = .pending ∨
      ∃ used, decodeAttempt kd (idealReadings (telegram ke c) n) = .result .noStart used)

/-- R191 without corruption, for the attempts after the first (RoundTrip is the first): attempt j + 1, starting at the
first answer the attempt before it did not read, decodes repetition j + 1 and reads S_ENC + 24 answers. -/
def Obligations.EveryLaterRepetitionIsReceived : Prop :=
  ∀ (ke : EncConfig) (kd : DecConfig) (c : Byte) (n j : Nat),
    wellFormedEnc ke = true → wellFormedDec kd = true → interoperable ke.err kd.err → kd.s = ke.s →
    budgetAtLeast (ke.p + ke.s) kd.startTries → 1 ≤ j → j < ke.r →
    decodeAttempt kd ((idealReadings (telegram ke c) n).drop (ke.p + j * (ke.s + 24))) =
      .result (.frame ke.addr c (255#8 - c) true) (ke.s + 24)

/-- R191 with corruption, for the attempt that reads it: readings none of which is in the start band, put where a
repetition was, cost nothing of the repetition after them, as long as the budget lasts to the end of its start sequence.
For a first repetition that takes more than R191's condition: the attempt has read the preamble too. -/
def Obligations.ACorruptedRepetitionCostsOnlyItself : Prop :=
  ∀ (ke : EncConfig) (kd : DecConfig) (c : Byte) (lost rs : List Reading),
    wellFormedEnc ke = true → wellFormedDec kd = true → interoperable ke.err kd.err → kd.s = ke.s →
    (∀ r ∈ lost, outsideBand kd.err r) → (kd.awaitTimeoutEnds = false ∨ none ∉ lost) →
    budgetAtLeast (lost.length + ke.s) kd.startTries →
    decodeAttempt kd
        (lost ++ startReadings ke.err ke.s ++ frameReadings ke.err (frameWordOf ke.addr c) ++ rs) =
      .result (.frame ke.addr c (255#8 - c) true) (lost.length + ke.s + 24)

/-- R255's last claim, "No mismatch ever yields a `Frame` with `valid = true` other than the correct one", for the first
attempt on a telegram. It FAILS where 6*ERR_ENC = 5*ERR_DEC and S_DEC < S_ENC: a start pulse is then both in the start
band and a 1 (R94's overlap), so the start pulses left over are read as bits, and the frame that results can pass its
check. -/
def Obligations.NoMismatchYieldsAWrongValidFrame : Prop :=
  ∀ (ke : EncConfig) (kd : DecConfig) (c a c' i : Byte) (n used : Nat),
    wellFormedEnc ke = true → wellFormedDec kd = true →
    decodeAttempt kd (idealReadings (telegram ke c) n) = .result (.frame a c' i true) used →
    a = ke.addr ∧ c' = c ∧ i = 255#8 - c

/-! ### Scripts -/

/-- R20: the macros of a script stand for the nominal readings: PRE, STARTS, and BITS of a frame's three bytes. -/
def Obligations.ScriptMacrosGiveNominalReadings : Prop :=
  ∀ (e m n : Nat) (a c i : Byte),
    (preMacro m ++ startsMacro n ++ bitsMacro a ++ bitsMacro c ++ bitsMacro i).filterMap (Line.answer e) =
      preReadings e m ++ startReadings e n ++ frameReadings e (packFrame a c i)
end

