-- ==== Sys2Proof/Laws/State.lean ====
section
/-! SUPPORT. One lemma per field per update of State, so that no later proof unfolds a record update. -/

namespace Sys2Proof.Machine

@[simp] theorem recordFault_recorded (f : FaultRecord) (x y : FaultName) :
    faultRecorded (recordFault f x) y = (faultRecorded f y || decide (x = y)) := by
  cases x <;> cases y <;> simp [recordFault, faultRecorded]

/-- Two fault records that hold the same names are the same. -/
theorem faultRecord_ext {f g : FaultRecord} (h : ∀ x, faultRecorded f x = faultRecorded g x) : f = g := by
  have h1 := h .illFormedConfig
  have h2 := h .overlappingTransmit
  have h3 := h .overlappingReceive
  cases f; cases g
  simp_all [faultRecorded]

/-! ### raiseFault -/

@[simp] theorem raiseFault_cfg (f : FaultName) (s : State) : (raiseFault f s).cfg = s.cfg := rfl
@[simp] theorem raiseFault_enc (f : FaultName) (s : State) : (raiseFault f s).enc = s.enc := rfl
@[simp] theorem raiseFault_dec (f : FaultName) (s : State) : (raiseFault f s).dec = s.dec := rfl
@[simp] theorem raiseFault_faults (f : FaultName) (s : State) : (raiseFault f s).faults = recordFault s.faults f := rfl
@[simp] theorem raiseFault_events (f : FaultName) (s : State) : (raiseFault f s).events = s.events := rfl
@[simp] theorem raiseFault_answers (f : FaultName) (s : State) : (raiseFault f s).answers = s.answers := rfl
@[simp] theorem raiseFault_freeRounds (f : FaultName) (s : State) : (raiseFault f s).freeRounds = s.freeRounds := rfl
@[simp] theorem raiseFault_freeReads (f : FaultName) (s : State) : (raiseFault f s).freeReads = s.freeReads := rfl
@[simp] theorem raiseFault_encLog (f : FaultName) (s : State) : (raiseFault f s).encLog = s.encLog := rfl
@[simp] theorem raiseFault_decLog (f : FaultName) (s : State) : (raiseFault f s).decLog = s.decLog := rfl

/-! ### logEnc -/

@[simp] theorem logEnc_cfg (a : EncAction) (s : State) : (logEnc a s).cfg = s.cfg := rfl
@[simp] theorem logEnc_enc (a : EncAction) (s : State) : (logEnc a s).enc = s.enc := rfl
@[simp] theorem logEnc_dec (a : EncAction) (s : State) : (logEnc a s).dec = s.dec := rfl
@[simp] theorem logEnc_faults (a : EncAction) (s : State) : (logEnc a s).faults = s.faults := rfl
@[simp] theorem logEnc_events (a : EncAction) (s : State) : (logEnc a s).events = s.events := rfl
@[simp] theorem logEnc_answers (a : EncAction) (s : State) : (logEnc a s).answers = s.answers := rfl
@[simp] theorem logEnc_freeRounds (a : EncAction) (s : State) : (logEnc a s).freeRounds = s.freeRounds := rfl
@[simp] theorem logEnc_freeReads (a : EncAction) (s : State) : (logEnc a s).freeReads = s.freeReads := rfl
@[simp] theorem logEnc_encLog (a : EncAction) (s : State) : (logEnc a s).encLog = s.encLog ++ [a] := rfl
@[simp] theorem logEnc_decLog (a : EncAction) (s : State) : (logEnc a s).decLog = s.decLog := rfl

/-! ### logDec -/

@[simp] theorem logDec_cfg (a : DecAction) (s : State) : (logDec a s).cfg = s.cfg := rfl
@[simp] theorem logDec_enc (a : DecAction) (s : State) : (logDec a s).enc = s.enc := rfl
@[simp] theorem logDec_dec (a : DecAction) (s : State) : (logDec a s).dec = s.dec := rfl
@[simp] theorem logDec_faults (a : DecAction) (s : State) : (logDec a s).faults = s.faults := rfl
@[simp] theorem logDec_events (a : DecAction) (s : State) : (logDec a s).events = s.events := rfl
@[simp] theorem logDec_answers (a : DecAction) (s : State) : (logDec a s).answers = s.answers := rfl
@[simp] theorem logDec_freeRounds (a : DecAction) (s : State) : (logDec a s).freeRounds = s.freeRounds := rfl
@[simp] theorem logDec_freeReads (a : DecAction) (s : State) : (logDec a s).freeReads = s.freeReads := rfl
@[simp] theorem logDec_encLog (a : DecAction) (s : State) : (logDec a s).encLog = s.encLog := rfl
@[simp] theorem logDec_decLog (a : DecAction) (s : State) : (logDec a s).decLog = s.decLog ++ [a] := rfl

/-! ### emit -/

@[simp] theorem emit_cfg (l : Level) (d : Nat) (s : State) : (emit l d s).cfg = s.cfg := rfl
@[simp] theorem emit_enc (l : Level) (d : Nat) (s : State) : (emit l d s).enc = { s.enc with carrier := l } := rfl
@[simp] theorem emit_dec (l : Level) (d : Nat) (s : State) : (emit l d s).dec = s.dec := rfl
@[simp] theorem emit_faults (l : Level) (d : Nat) (s : State) : (emit l d s).faults = s.faults := rfl
@[simp] theorem emit_events (l : Level) (d : Nat) (s : State) : (emit l d s).events = s.events := rfl
@[simp] theorem emit_answers (l : Level) (d : Nat) (s : State) : (emit l d s).answers = s.answers := rfl
@[simp] theorem emit_freeRounds (l : Level) (d : Nat) (s : State) : (emit l d s).freeRounds = s.freeRounds := rfl
@[simp] theorem emit_freeReads (l : Level) (d : Nat) (s : State) : (emit l d s).freeReads = s.freeReads := rfl
@[simp] theorem emit_encLog (l : Level) (d : Nat) (s : State) : (emit l d s).encLog = s.encLog ++ [.emit ⟨l, d⟩] := rfl
@[simp] theorem emit_decLog (l : Level) (d : Nat) (s : State) : (emit l d s).decLog = s.decLog := rfl

/-! ### dropAnswer -/

@[simp] theorem dropAnswer_cfg (s : State) : (dropAnswer s).cfg = s.cfg := by
  unfold dropAnswer; split <;> rfl
@[simp] theorem dropAnswer_enc (s : State) : (dropAnswer s).enc = s.enc := by
  unfold dropAnswer; split <;> rfl
@[simp] theorem dropAnswer_dec (s : State) : (dropAnswer s).dec = s.dec := by
  unfold dropAnswer; split <;> rfl
@[simp] theorem dropAnswer_faults (s : State) : (dropAnswer s).faults = s.faults := by
  unfold dropAnswer; split <;> rfl
@[simp] theorem dropAnswer_events (s : State) : (dropAnswer s).events = s.events := by
  unfold dropAnswer; split <;> rfl
@[simp] theorem dropAnswer_freeRounds (s : State) : (dropAnswer s).freeRounds = s.freeRounds := by
  unfold dropAnswer; split <;> rfl
@[simp] theorem dropAnswer_encLog (s : State) : (dropAnswer s).encLog = s.encLog := by
  unfold dropAnswer; split <;> rfl
@[simp] theorem dropAnswer_decLog (s : State) : (dropAnswer s).decLog = s.decLog := by
  unfold dropAnswer; split <;> rfl
@[simp] theorem dropAnswer_answers (s : State) : (dropAnswer s).answers = s.answers.tail := by
  unfold dropAnswer; split <;> simp_all
theorem dropAnswer_freeReads (s : State) :
    (dropAnswer s).freeReads = if s.answers = [] then s.freeReads + 1 else s.freeReads := by
  unfold dropAnswer; split <;> simp_all

/-! ### measurePulse -/

@[simp] theorem measurePulse_cfg (n : Nat) (s : State) : (measurePulse n s).cfg = s.cfg := by
  simp [measurePulse]
@[simp] theorem measurePulse_enc (n : Nat) (s : State) : (measurePulse n s).enc = s.enc := by
  simp [measurePulse]
@[simp] theorem measurePulse_dec (n : Nat) (s : State) : (measurePulse n s).dec = s.dec := by
  simp [measurePulse]
@[simp] theorem measurePulse_faults (n : Nat) (s : State) : (measurePulse n s).faults = s.faults := by
  simp [measurePulse]
@[simp] theorem measurePulse_events (n : Nat) (s : State) : (measurePulse n s).events = s.events := by
  simp [measurePulse]
@[simp] theorem measurePulse_answers (n : Nat) (s : State) : (measurePulse n s).answers = s.answers.tail := by
  simp [measurePulse]
@[simp] theorem measurePulse_freeRounds (n : Nat) (s : State) : (measurePulse n s).freeRounds = s.freeRounds := by
  simp [measurePulse]
@[simp] theorem measurePulse_freeReads (n : Nat) (s : State) :
    (measurePulse n s).freeReads = (dropAnswer s).freeReads := by
  simp [measurePulse]
@[simp] theorem measurePulse_encLog (n : Nat) (s : State) : (measurePulse n s).encLog = s.encLog := by
  simp [measurePulse]
@[simp] theorem measurePulse_decLog (n : Nat) (s : State) :
    (measurePulse n s).decLog = s.decLog ++ [.measure n (nextAnswer s)] := by
  simp [measurePulse]

/-! ### wait -/

@[simp] theorem wait_cfg (d : Nat) (s : State) : (wait d s).cfg = s.cfg := rfl
@[simp] theorem wait_enc (d : Nat) (s : State) : (wait d s).enc = s.enc := rfl
@[simp] theorem wait_dec (d : Nat) (s : State) : (wait d s).dec = s.dec := rfl
@[simp] theorem wait_faults (d : Nat) (s : State) : (wait d s).faults = s.faults := rfl
@[simp] theorem wait_events (d : Nat) (s : State) : (wait d s).events = s.events := rfl
@[simp] theorem wait_answers (d : Nat) (s : State) : (wait d s).answers = s.answers := rfl
@[simp] theorem wait_freeRounds (d : Nat) (s : State) : (wait d s).freeRounds = s.freeRounds := rfl
@[simp] theorem wait_freeReads (d : Nat) (s : State) : (wait d s).freeReads = s.freeReads := rfl
@[simp] theorem wait_encLog (d : Nat) (s : State) : (wait d s).encLog = s.encLog := rfl
@[simp] theorem wait_decLog (d : Nat) (s : State) : (wait d s).decLog = s.decLog ++ [.wait d] := rfl

/-! ### report -/

@[simp] theorem report_cfg (x : Result) (s : State) : (report x s).cfg = s.cfg := rfl
@[simp] theorem report_enc (x : Result) (s : State) : (report x s).enc = s.enc := rfl
@[simp] theorem report_dec (x : Result) (s : State) : (report x s).dec = { s.dec with res := x } := rfl
@[simp] theorem report_faults (x : Result) (s : State) : (report x s).faults = s.faults := rfl
@[simp] theorem report_events (x : Result) (s : State) : (report x s).events = s.events := rfl
@[simp] theorem report_answers (x : Result) (s : State) : (report x s).answers = s.answers := rfl
@[simp] theorem report_freeRounds (x : Result) (s : State) : (report x s).freeRounds = s.freeRounds := rfl
@[simp] theorem report_freeReads (x : Result) (s : State) : (report x s).freeReads = s.freeReads := rfl
@[simp] theorem report_encLog (x : Result) (s : State) : (report x s).encLog = s.encLog := rfl
@[simp] theorem report_decLog (x : Result) (s : State) : (report x s).decLog = s.decLog ++ [.report x] := rfl

/-! ### finish -/

@[simp] theorem finish_cfg (x : Result) (s : State) : (finish x s).cfg = s.cfg := rfl
@[simp] theorem finish_enc (x : Result) (s : State) : (finish x s).enc = s.enc := rfl
@[simp] theorem finish_dec (x : Result) (s : State) : (finish x s).dec = { s.dec with st := .done, res := x } := rfl
@[simp] theorem finish_faults (x : Result) (s : State) : (finish x s).faults = s.faults := rfl
@[simp] theorem finish_events (x : Result) (s : State) : (finish x s).events = s.events := rfl
@[simp] theorem finish_answers (x : Result) (s : State) : (finish x s).answers = s.answers := rfl
@[simp] theorem finish_freeRounds (x : Result) (s : State) : (finish x s).freeRounds = s.freeRounds := rfl
@[simp] theorem finish_freeReads (x : Result) (s : State) : (finish x s).freeReads = s.freeReads := rfl
@[simp] theorem finish_encLog (x : Result) (s : State) : (finish x s).encLog = s.encLog := rfl
@[simp] theorem finish_decLog (x : Result) (s : State) : (finish x s).decLog = s.decLog ++ [.report x] := rfl

/-! ### abort -/

@[simp] theorem abort_cfg (s : State) : (abort s).cfg = s.cfg := rfl
@[simp] theorem abort_enc (s : State) : (abort s).enc = s.enc := rfl
@[simp] theorem abort_dec (s : State) :
    (abort s).dec = { s.dec with st := .done, n := 0, acc := 0#24, res := .incomplete } := rfl
@[simp] theorem abort_faults (s : State) : (abort s).faults = s.faults := rfl
@[simp] theorem abort_events (s : State) : (abort s).events = s.events := rfl
@[simp] theorem abort_answers (s : State) : (abort s).answers = s.answers := rfl
@[simp] theorem abort_freeRounds (s : State) : (abort s).freeRounds = s.freeRounds := rfl
@[simp] theorem abort_freeReads (s : State) : (abort s).freeReads = s.freeReads := rfl
@[simp] theorem abort_encLog (s : State) : (abort s).encLog = s.encLog := rfl
@[simp] theorem abort_decLog (s : State) : (abort s).decLog = s.decLog ++ [.report .incomplete] := rfl

/-! ### startTelegram -/

@[simp] theorem startTelegram_cfg (c : Byte) (s : State) : (startTelegram c s).cfg = s.cfg := rfl
@[simp] theorem startTelegram_enc (c : Byte) (s : State) : (startTelegram c s).enc =
      { st := if 0 < s.cfg.enc.p then .pre else .start, ph := .burst, pc := 0, sc := 0, rc := 0, bi := 0,
        fw := frameWordOf s.cfg.enc.addr c, carrier := s.enc.carrier } := rfl
@[simp] theorem startTelegram_dec (c : Byte) (s : State) : (startTelegram c s).dec = s.dec := rfl
@[simp] theorem startTelegram_faults (c : Byte) (s : State) : (startTelegram c s).faults = s.faults := rfl
@[simp] theorem startTelegram_events (c : Byte) (s : State) : (startTelegram c s).events = s.events := rfl
@[simp] theorem startTelegram_answers (c : Byte) (s : State) : (startTelegram c s).answers = s.answers := rfl
@[simp] theorem startTelegram_freeRounds (c : Byte) (s : State) : (startTelegram c s).freeRounds = s.freeRounds := rfl
@[simp] theorem startTelegram_freeReads (c : Byte) (s : State) : (startTelegram c s).freeReads = s.freeReads := rfl
@[simp] theorem startTelegram_encLog (c : Byte) (s : State) :
    (startTelegram c s).encLog = s.encLog ++ [.transmit c] := rfl
@[simp] theorem startTelegram_decLog (c : Byte) (s : State) : (startTelegram c s).decLog = s.decLog := rfl

/-! ### startAttempt -/

@[simp] theorem startAttempt_cfg (s : State) : (startAttempt s).cfg = s.cfg := rfl
@[simp] theorem startAttempt_enc (s : State) : (startAttempt s).enc = s.enc := rfl
@[simp] theorem startAttempt_dec (s : State) :
    (startAttempt s).dec = { st := .await, sc := 0, tries := 0, n := 0, acc := 0#24, res := .empty } := rfl
@[simp] theorem startAttempt_faults (s : State) : (startAttempt s).faults = s.faults := rfl
@[simp] theorem startAttempt_events (s : State) : (startAttempt s).events = s.events := rfl
@[simp] theorem startAttempt_answers (s : State) : (startAttempt s).answers = s.answers := rfl
@[simp] theorem startAttempt_freeRounds (s : State) : (startAttempt s).freeRounds = s.freeRounds := rfl
@[simp] theorem startAttempt_freeReads (s : State) : (startAttempt s).freeReads = s.freeReads := rfl
@[simp] theorem startAttempt_encLog (s : State) : (startAttempt s).encLog = s.encLog := rfl
@[simp] theorem startAttempt_decLog (s : State) : (startAttempt s).decLog = s.decLog ++ [.receive] := rfl

/-! ### resetRegisters -/

@[simp] theorem resetRegisters_cfg (s : State) : (resetRegisters s).cfg = s.cfg := rfl
@[simp] theorem resetRegisters_enc (s : State) : (resetRegisters s).enc = EncState.reset := rfl
@[simp] theorem resetRegisters_dec (s : State) : (resetRegisters s).dec = DecState.reset := rfl
@[simp] theorem resetRegisters_faults (s : State) : (resetRegisters s).faults = s.faults := rfl
@[simp] theorem resetRegisters_events (s : State) : (resetRegisters s).events = s.events := rfl
@[simp] theorem resetRegisters_answers (s : State) : (resetRegisters s).answers = s.answers := rfl
@[simp] theorem resetRegisters_freeRounds (s : State) : (resetRegisters s).freeRounds = s.freeRounds := rfl
@[simp] theorem resetRegisters_freeReads (s : State) : (resetRegisters s).freeReads = s.freeReads := rfl
@[simp] theorem resetRegisters_encLog (s : State) : (resetRegisters s).encLog = s.encLog ++ [.setCarrier false] := rfl
@[simp] theorem resetRegisters_decLog (s : State) : (resetRegisters s).decLog = s.decLog := rfl

/-! ### placeEvent -/

@[simp] theorem placeEvent_cfg (ev : Event) (s : State) : (placeEvent ev s).cfg = s.cfg := rfl
@[simp] theorem placeEvent_enc (ev : Event) (s : State) : (placeEvent ev s).enc = s.enc := rfl
@[simp] theorem placeEvent_dec (ev : Event) (s : State) : (placeEvent ev s).dec = s.dec := rfl
@[simp] theorem placeEvent_faults (ev : Event) (s : State) : (placeEvent ev s).faults = s.faults := rfl
@[simp] theorem placeEvent_events (ev : Event) (s : State) : (placeEvent ev s).events = ev :: s.events := rfl
@[simp] theorem placeEvent_answers (ev : Event) (s : State) : (placeEvent ev s).answers = s.answers := rfl
@[simp] theorem placeEvent_freeRounds (ev : Event) (s : State) : (placeEvent ev s).freeRounds = s.freeRounds := rfl
@[simp] theorem placeEvent_freeReads (ev : Event) (s : State) : (placeEvent ev s).freeReads = s.freeReads := rfl
@[simp] theorem placeEvent_encLog (ev : Event) (s : State) : (placeEvent ev s).encLog = s.encLog := rfl
@[simp] theorem placeEvent_decLog (ev : Event) (s : State) : (placeEvent ev s).decLog = s.decLog := rfl

/-! ### dropEvent -/

@[simp] theorem dropEvent_cfg (s : State) : (dropEvent s).cfg = s.cfg := by
  unfold dropEvent; split <;> rfl
@[simp] theorem dropEvent_enc (s : State) : (dropEvent s).enc = s.enc := by
  unfold dropEvent; split <;> rfl
@[simp] theorem dropEvent_dec (s : State) : (dropEvent s).dec = s.dec := by
  unfold dropEvent; split <;> rfl
@[simp] theorem dropEvent_faults (s : State) : (dropEvent s).faults = s.faults := by
  unfold dropEvent; split <;> rfl
@[simp] theorem dropEvent_answers (s : State) : (dropEvent s).answers = s.answers := by
  unfold dropEvent; split <;> rfl
@[simp] theorem dropEvent_freeReads (s : State) : (dropEvent s).freeReads = s.freeReads := by
  unfold dropEvent; split <;> rfl
@[simp] theorem dropEvent_encLog (s : State) : (dropEvent s).encLog = s.encLog := by
  unfold dropEvent; split <;> rfl
@[simp] theorem dropEvent_decLog (s : State) : (dropEvent s).decLog = s.decLog := by
  unfold dropEvent; split <;> rfl
theorem dropEvent_cons {s : State} {ev : Event} {evs : List Event} (h : s.events = ev :: evs) :
    dropEvent s = { s with events := evs } := by
  unfold dropEvent; rw [h]
theorem dropEvent_nil {s : State} (h : s.events = []) :
    dropEvent s = { s with events := (freeEvents s.freeRounds).tail, freeRounds := s.freeRounds + 1 } := by
  unfold dropEvent; rw [h]

end Sys2Proof.Machine
end

