-- ==== Sys2Proof/Laws/Ops.lean ====
section
/-! SUPPORT. One lemma for each shared operation that says once everything it can do. Later proofs cite these and do not
unfold the operations. -/

namespace Sys2Proof.Machine

/-! ### A step under its selector -/

@[simp] theorem whenSelected_next {g : Prop} [Decidable g] {t u : State} :
    whenSelected g t = .next u ↔ g ∧ t = u := by
  unfold whenSelected; split <;> simp_all

@[simp] theorem whenSelected_refused {g : Prop} [Decidable g] {t : State} {r : Refusal} :
    whenSelected g t = .refused r ↔ ¬ g ∧ Refusal.notSelected = r := by
  unfold whenSelected; split <;> simp_all

@[simp] theorem whenSelected_not_fault {g : Prop} [Decidable g] {t : State} {f : Fault} :
    whenSelected g t ≠ .fault f := by
  unfold whenSelected; split <;> simp

/-! ### Readings and their classes -/

@[simp] theorem classifyAwait_none (e : Nat) : classifyAwait e none = .timeout := rfl

/-- The AwaitStart class of a measured duration, the band written out. -/
theorem classifyAwait_some (e d : Nat) :
    classifyAwait e (some d) = if 5 * e ≤ d ∧ d ≤ 7 * e then .inBand else .outOfBand := rfl

@[simp] theorem classifyRead_none (e : Nat) : classifyRead e none = .timeout := rfl

/-- The ReadingBits class of a measured duration, the bands written out. -/
theorem classifyRead_some (e d : Nat) :
    classifyRead e (some d) =
      if d < 1 * e then .abortShort else if d > 5 * e then .abortLong else if d > 3 * e then .one else .zero := rfl

/-- A reading gives a bit exactly when it is one of the two bit classes. -/
theorem readBit?_eq_some {e : Nat} {r : Reading} {b : Bool} :
    readBit? e r = some b ↔ classifyRead e r = if b then .one else .zero := by
  unfold readBit?; cases b <;> split <;> simp_all

/-- A reading gives no bit exactly when it is one of the three abort classes. -/
theorem readBit?_eq_none {e : Nat} {r : Reading} :
    readBit? e r = none ↔
      classifyRead e r = .timeout ∨ classifyRead e r = .abortShort ∨ classifyRead e r = .abortLong := by
  unfold readBit?; split <;> simp_all
  cases h : classifyRead e r <;> simp_all

/-- The guard of D.NOSTART holds exactly when the budget is finite and spent (R96). -/
theorem compareBudget_eq {n : Nat} {b : Budget} : compareBudget n b = .eq ↔ b = .reads n := by
  cases b with
  | unlimited => simp [compareBudget]
  | reads m =>
    simp only [compareBudget, Budget.reads.injEq]
    split
    · simp; omega
    · split <;> simp_all; omega

/-- The guard of D.AWAIT_READ holds exactly when a finite budget is not spent (R96). -/
theorem compareBudget_lt {n : Nat} {b : Budget} : compareBudget n b = .lt ↔ ∀ m, b = .reads m → n < m := by
  cases b with
  | unlimited => simp [compareBudget]
  | reads m =>
    simp only [compareBudget, Budget.reads.injEq, forall_eq']
    split
    · simp_all
    · split <;> simp_all

/-! ### The frame word -/

/-- The bits of a frame word, numbered from its least significant bit. -/
theorem packFrame_bit (a c i : Byte) (k : Nat) :
    (packFrame a c i).getLsbD k =
      if k < 8 then i.getLsbD k else if k < 16 then c.getLsbD (k - 8) else a.getLsbD (k - 16) := by
  have h₁ : (packFrame a c i).getLsbD k = if k < 8 then i.getLsbD k else (a ++ c).getLsbD (k - 8) :=
    BitVec.getLsbD_append
  rw [h₁, BitVec.getLsbD_append]
  split
  · rfl
  · rw [show k - 8 - 8 = k - 16 by omega]
    exact if_congr (by omega) rfl rfl

@[simp] theorem addressField_pack (a c i : Byte) : addressField (packFrame a c i) = a := by
  apply BitVec.eq_of_getLsbD_eq
  intro j hj
  rw [addressField, BitVec.getLsbD_extractLsb', packFrame_bit]
  rw [if_neg (by omega), if_neg (by omega), show 16 + j - 16 = j by omega]
  simp [hj]

@[simp] theorem commandField_pack (a c i : Byte) : commandField (packFrame a c i) = c := by
  apply BitVec.eq_of_getLsbD_eq
  intro j hj
  rw [commandField, BitVec.getLsbD_extractLsb', packFrame_bit]
  rw [if_neg (by omega), if_pos (by omega), show 8 + j - 8 = j by omega]
  simp [hj]

@[simp] theorem inverseField_pack (a c i : Byte) : inverseField (packFrame a c i) = i := by
  apply BitVec.eq_of_getLsbD_eq
  intro j hj
  rw [inverseField, BitVec.getLsbD_extractLsb', packFrame_bit]
  rw [if_pos (by omega)]
  simp [hj]

/-- A frame word is its three fields. -/
theorem pack_fields (v : Frame24) : packFrame (addressField v) (commandField v) (inverseField v) = v := by
  apply BitVec.eq_of_getLsbD_eq
  intro j hj
  rw [packFrame_bit, addressField, commandField, inverseField]
  simp only [BitVec.getLsbD_extractLsb']
  split
  · simp [*]
  · split
    · rw [show 8 + (j - 8) = j by omega]; simp; omega
    · rw [show 16 + (j - 16) = j by omega]; simp; omega

/-- The bit at one of the 24 transmission positions. -/
theorem frameBit_eq {fw : Frame24} {k : Nat} (h : k < 24) : frameBit fw k = fw.getLsbD (23 - k) := if_pos h

/-- The hold of a preamble space, where TEC is no more than the width it shortens. -/
theorem preSpaceWidth_eq {k : EncConfig} (h : k.tec ≤ 2 * k.err) : preSpaceWidth k = 2 * k.err - k.tec := if_pos h

/-- A well-formed encoder configuration, its four conditions written out (R113). -/
theorem wellFormedEnc_iff {k : EncConfig} :
    wellFormedEnc k = true ↔ 1 ≤ k.err ∧ 1 ≤ k.s ∧ 1 ≤ k.r ∧ k.tec + 1 ≤ 2 * k.err := by
  simp [wellFormedEnc, and_assoc]

/-- A well-formed decoder configuration, its four conditions written out (R113). -/
theorem wellFormedDec_iff {k : DecConfig} :
    wellFormedDec k = true ↔ 1 ≤ k.err ∧ 1 ≤ k.s ∧ 1 ≤ k.toStart ∧ 1 ≤ k.toBit := by
  simp [wellFormedDec, and_assoc]

/-- A bit enters the accumulator at bit 0 (R88). -/
theorem shiftIn_bit (acc : Frame24) (b : Bool) (j : Nat) (h : j < 24) :
    (shiftIn acc b).getLsbD j = if j = 0 then b else acc.getLsbD (j - 1) := by
  by_cases hj : j = 0
  · subst hj; simp [shiftIn]
  · have : ¬ j < 1 := by omega
    rw [shiftIn, BitVec.getLsbD_or, BitVec.getLsbD_shiftLeft]
    simp [hj, this, h]

/-! ### The host's two commands -/

/-- Everything a request transmit(c) can do, in the order of R224. -/
theorem requestTransmit_cases (c : Byte) (s : State) :
    (s.enc.st ≠ .idle ∧ requestTransmit c s = raiseFault .overlappingTransmit s) ∨
    (s.enc.st = .idle ∧ wellFormedEnc s.cfg.enc = true ∧ requestTransmit c s = startTelegram c s) ∨
    (s.enc.st = .idle ∧ wellFormedEnc s.cfg.enc = false ∧ requestTransmit c s = raiseFault .illFormedConfig s) := by
  unfold requestTransmit encBusy
  by_cases h : s.enc.st = .idle <;> cases hw : wellFormedEnc s.cfg.enc <;> simp [h]

/-- Everything a request receiveFrame() can do, in the order of R224. -/
theorem requestReceive_cases (s : State) :
    (decBusy s = true ∧ requestReceive s = raiseFault .overlappingReceive s) ∨
    (decBusy s = false ∧ wellFormedDec s.cfg.dec = true ∧ requestReceive s = startAttempt s) ∨
    (decBusy s = false ∧ wellFormedDec s.cfg.dec = false ∧ requestReceive s = raiseFault .illFormedConfig s) := by
  unfold requestReceive
  cases h : decBusy s <;> cases hw : wellFormedDec s.cfg.dec <;> simp

/-! ### The segment steps, their record updates written out -/

theorem preBurst_eq (s : State) : preBurst s = { s with
    enc := { s.enc with carrier := .on, ph := .space }
    encLog := s.encLog ++ [.emit ⟨.on, bit0Width s.cfg.enc.err⟩] } := rfl

theorem preSpace_eq (s : State) : preSpace s = { s with
    enc := { s.enc with carrier := .off, ph := .burst, pc := s.enc.pc + 1,
                        st := if s.enc.pc + 1 = s.cfg.enc.p then .start else s.enc.st }
    encLog := s.encLog ++ [.emit ⟨.off, preSpaceWidth s.cfg.enc⟩] } := rfl

theorem startBurst_eq (s : State) : startBurst s = { s with
    enc := { s.enc with carrier := .on, ph := .space }
    encLog := s.encLog ++ [.emit ⟨.on, startWidth s.cfg.enc.err⟩] } := rfl

theorem startSpace_eq (s : State) : startSpace s = { s with
    enc := { s.enc with carrier := .off, ph := .burst, sc := s.enc.sc + 1,
                        st := if s.enc.sc + 1 = s.cfg.enc.s then .data else s.enc.st,
                        bi := if s.enc.sc + 1 = s.cfg.enc.s then 0 else s.enc.bi }
    encLog := s.encLog ++ [.emit ⟨.off, startWidth s.cfg.enc.err⟩] } := rfl

theorem dataBurst_eq (s : State) : dataBurst s = { s with
    enc := { s.enc with carrier := .on, ph := .space }
    encLog := s.encLog ++ [.emit ⟨.on, bitWidth s.cfg.enc.err (currentBit s)⟩] } := rfl

theorem dataSpace_eq (s : State) : dataSpace s = { s with
    enc := { s.enc with carrier := .off, ph := .burst, bi := s.enc.bi + 1,
                        st := if s.enc.bi + 1 = 24 then .stop else s.enc.st }
    encLog := s.encLog ++ [.emit ⟨.off, bitWidth s.cfg.enc.err (currentBit s)⟩] } := rfl

theorem stopGap_eq (s : State) : stopGap s = { s with
    enc := { s.enc with carrier := .off, rc := s.enc.rc + 1,
                        st := if s.enc.rc + 1 = s.cfg.enc.r then .idle else .start,
                        sc := if s.enc.rc + 1 = s.cfg.enc.r then s.enc.sc else 0 }
    encLog := s.encLog ++ [.emit ⟨.off, minStopGap s.cfg.enc.err⟩] } := rfl

/-! ### The decoder's reads -/

/-- Everything one AwaitStart read can do (R174). -/
theorem awaitRead_cases (s : State) :
    (classifyAwait s.cfg.dec.err (nextAnswer s) = .inBand ∧ awaitRead s = onAwIn (awaitMeasure s)) ∨
    (nextAnswer s = none ∧ s.cfg.dec.awaitTimeoutEnds = true ∧ awaitRead s = finish .noStart (awaitMeasure s)) ∨
    (nextAnswer s = none ∧ s.cfg.dec.awaitTimeoutEnds = false ∧ awaitRead s = onAwOut (awaitMeasure s)) ∨
    (classifyAwait s.cfg.dec.err (nextAnswer s) = .outOfBand ∧ awaitRead s = onAwOut (awaitMeasure s)) := by
  have hc : (awaitMeasure s).cfg = s.cfg := by simp [awaitMeasure]
  cases hr : nextAnswer s with
  | none =>
    cases hp : s.cfg.dec.awaitTimeoutEnds <;> simp [awaitRead, hr, onAwTimeout, hc, hp, onAwOut]
  | some d =>
    have h := classifyAwait_some s.cfg.dec.err d
    split at h <;> simp [awaitRead, hr, h]

/-- Everything one ReadingBits read can do (R176, R177). -/
theorem readBitStep_cases (s : State) :
    (readBit? s.cfg.dec.err (nextAnswer s) = none ∧ readBitStep s = abort (bitMeasure s)) ∨
    (∃ b, readBit? s.cfg.dec.err (nextAnswer s) = some b ∧ readBitStep s = onBit b (bitMeasure s)) := by
  unfold readBitStep readBit?
  cases h : classifyRead s.cfg.dec.err (nextAnswer s) <;> simp

/-- A bit that is not the 24th (R176). -/
theorem onBit_collects {b : Bool} {s : State} (h : s.dec.n + 1 ≠ 24) :
    onBit b s = { s with dec := { s.dec with acc := shiftIn s.dec.acc b, n := s.dec.n + 1 } } := by
  simp [onBit, h]

/-- The 24th bit (R180). -/
theorem onBit_completes {b : Bool} {s : State} (h : s.dec.n + 1 = 24) :
    onBit b s = complete (shiftIn s.dec.acc b)
      { s with dec := { s.dec with acc := shiftIn s.dec.acc b, n := s.dec.n + 1 } } := by
  simp [onBit, h]

/-! ### Steps and runs -/

/-- Everything a step that answers a next state can do: it runs the instruction it fetched, or the unit whose move it is
has no step. -/
theorem step_next_cases {s t : State} (h : step s = .next t) :
    (∃ i, fetched s = .ok i ∧ exec i (dropEvent s) = .next t) ∨
      (fetched s = .rejected .noStep ∧ t = dropEvent s) := by
  unfold step at h
  cases hf : fetched s with
  | ok i => rw [hf] at h; exact .inl ⟨i, rfl, h⟩
  | rejected e =>
    rw [hf] at h
    cases e <;> simp_all [onRejected]

/-- A free round lists at least one event. -/
theorem freeEvents_ne_nil (n : Nat) : freeEvents n ≠ [] := by
  simp [freeEvents, roundMoves]

/-- The moves of both units stand in every free round (R241). -/
theorem unit_moves_in_freeEvents (n : Nat) :
    Event.move .encoder ∈ freeEvents n ∧ Event.move .decoder ∈ freeEvents n := by
  simp [freeEvents, roundMoves]

/-- The events still to come before a step: those listed, else the next free round. The step takes the first of them and
leaves the others. -/
theorem nextEvent_cons_dropEvent (s : State) :
    nextEvent s :: (dropEvent s).events = if s.events = [] then freeEvents s.freeRounds else s.events := by
  cases h : s.events with
  | cons ev evs => simp [nextEvent, dropEvent, h]
  | nil =>
    obtain ⟨ev, evs, he⟩ := List.exists_cons_of_ne_nil (freeEvents_ne_nil s.freeRounds)
    simp [nextEvent, dropEvent, h, he]

@[simp] theorem run_zero (s : State) : run 0 s = .next s := rfl

/-- A run of at least one step of any machine, its first step taken out. -/
theorem coreRun_succ (M : Host.Core) (k : Nat) (s : M.State) :
    M.run (k + 1) s =
      match M.step s with
      | .next u => M.run k u
      | .fault f => .fault f
      | .refused r => .refused r := rfl

/-- A run of at least one step, its first step taken out. -/
theorem run_succ_eq (s : State) (k : Nat) :
    run (k + 1) s =
      match step s with
      | .next u => run k u
      | .fault f => .fault f
      | .refused r => .refused r := by
  have h := coreRun_succ Sys2Proof.core k s
  cases hs : step s with
  | next u =>
    have hc : Sys2Proof.core.step s = .next u := hs
    rw [hc] at h; exact h
  | fault f =>
    have hc : Sys2Proof.core.step s = .fault f := hs
    rw [hc] at h; exact h
  | refused r =>
    have hc : Sys2Proof.core.step s = .refused r := hs
    rw [hc] at h; exact h

/-- A run whose first step answers a next state goes on from there. -/
theorem run_succ {s t : State} (k : Nat) (h : step s = .next t) : run (k + 1) s = run k t := by
  rw [run_succ_eq, h]

/-- Two runs one after the other are one run. -/
theorem run_append {s t u : State} {j k : Nat} (h₁ : run j s = .next t) (h₂ : run k t = .next u) :
    run (j + k) s = .next u := by
  induction j generalizing s with
  | zero =>
    have h : s = t := by simpa using h₁
    rw [h, Nat.zero_add, h₂]
  | succ j ih =>
    rw [Nat.add_right_comm]
    rw [run_succ_eq] at h₁ ⊢
    cases hs : step s with
    | next v => rw [hs] at h₁; exact ih h₁
    | fault f => rw [hs] at h₁; cases h₁
    | refused r => rw [hs] at h₁; cases h₁

/-! ### The retry loop -/

/-- An attempt that ends is followed by the attempts on the answers it did not read. -/
theorem retryLoop_result {k : DecConfig} {rs : List Reading} {x : Result} {used : Nat} (n : Nat)
    (h : decodeAttempt k rs = .result x used) :
    retryLoop k (n + 1) rs = (x, used) :: retryLoop k n (rs.drop used) := by
  simp [retryLoop, h]

/-- An attempt that does not end is the last. -/
theorem retryLoop_pending {k : DecConfig} {rs : List Reading} (n : Nat) (h : decodeAttempt k rs = .pending) :
    retryLoop k n rs = [] := by
  cases n <;> simp [retryLoop, h]

/-! ### Segment lists -/

@[simp] theorem length_repeated {α : Type} (n : Nat) (l : List α) : (repeated n l).length = n * l.length := by
  induction n with
  | zero => simp [repeated]
  | succ n ih => simp [repeated, ih, Nat.succ_mul, Nat.add_comm]

@[simp] theorem duration_append (l m : List Segment) : duration (l ++ m) = duration l + duration m := by
  simp [duration]

@[simp] theorem onTime_append (l m : List Segment) : onTime (l ++ m) = onTime l + onTime m := by
  simp [onTime]

@[simp] theorem duration_repeated (n : Nat) (l : List Segment) : duration (repeated n l) = n * duration l := by
  induction n with
  | zero => simp [repeated, duration]
  | succ n ih => simp [repeated, ih, Nat.succ_mul, Nat.add_comm]

@[simp] theorem onTime_repeated (n : Nat) (l : List Segment) : onTime (repeated n l) = n * onTime l := by
  induction n with
  | zero => simp [repeated, onTime]
  | succ n ih => simp [repeated, ih, Nat.succ_mul, Nat.add_comm]

end Sys2Proof.Machine
end

