-- ==== Sys2Proof/Laws/Effects.lean ====
section
/-! SUPPORT. Everything an instruction can do, said once: a next state of exec comes from one of the block's operations, or
from the two of a pulse where the instruction is a symbol. Invariants and frames are proved by cases on Effect and do not
split exec into its arms again. -/

namespace Sys2Proof.Machine

/-- t is s after the operations of one instruction, each with the guard it ran under. -/
inductive Effect (s : State) : State → Prop
  | requestTransmit (c : Byte) : Effect s (requestTransmit c s)
  | startTelegram (c : Byte) :
      s.enc.st = .idle → wellFormedEnc s.cfg.enc = true → Effect s (startTelegram c s)
  | preBurst : s.enc.st = .pre → s.enc.ph = .burst → Effect s (preBurst s)
  | preSpace : s.enc.st = .pre → s.enc.ph = .space → Effect s (preSpace s)
  | startBurst : s.enc.st = .start → s.enc.ph = .burst → Effect s (startBurst s)
  | startSpace : s.enc.st = .start → s.enc.ph = .space → Effect s (startSpace s)
  | dataBurst : s.enc.st = .data → s.enc.ph = .burst → Effect s (dataBurst s)
  | dataSpace : s.enc.st = .data → s.enc.ph = .space → Effect s (dataSpace s)
  | stopGap : s.enc.st = .stop → Effect s (stopGap s)
  | requestReceive : Effect s (requestReceive s)
  | startAttempt : decBusy s = false → wellFormedDec s.cfg.dec = true → Effect s (startAttempt s)
  | budgetSpent : s.dec.st = .await → triesGuard s = .eq → Effect s (budgetSpent s)
  | awaitRead : s.dec.st = .await → triesGuard s = .lt → Effect s (awaitRead s)
  | guardWait : s.dec.st = .synced → Effect s (guardWait s)
  | readBitStep : s.dec.st = .read → Effect s (readBitStep s)
  | reset : Effect s (resetRegisters s)
  | prePulse : s.enc.st = .pre → s.enc.ph = .burst → Effect s (preSpace (preBurst s))
  | startPulse : s.enc.st = .start → s.enc.ph = .burst → Effect s (startSpace (startBurst s))
  | dataPulse : s.enc.st = .data → s.enc.ph = .burst → Effect s (dataSpace (dataBurst s))

/-- The read of a class of AwaitStart is D.AWAIT_READ's. -/
theorem awaitReads_iff {r : Reading} {k : AwClass} {s : State} :
    awaitReads r k s = true ↔
      s.dec.st = .await ∧ triesGuard s = .lt ∧ nextAnswer s = r ∧ classifyAwait s.cfg.dec.err r = k := by
  simp [awaitReads, and_assoc]

/-- The read of a class of ReadingBits is D.READ_BIT's. -/
theorem bitReads_iff {r : Reading} {k : RbClass} {s : State} :
    bitReads r k s = true ↔ s.dec.st = .read ∧ nextAnswer s = r ∧ classifyRead s.cfg.dec.err r = k := by
  simp [bitReads, and_assoc]

/-- A word is completed only by D.READ_BIT, as its 24th bit. -/
theorem completedWord_state {s : State} {v : Frame24} (h : completedWord s = some v) :
    s.dec.st = .read ∧ s.dec.n = 23 := by
  unfold completedWord at h
  split at h
  · assumption
  · cases h

/-- Everything a class row of AwaitStart can do. -/
theorem awaitRead_of_class {r : Reading} {k : AwClass} {s : State} (h : awaitReads r k s = true) :
    s.dec.st = .await ∧ triesGuard s = .lt ∧
      awaitRead s = match k with
        | .inBand => onAwIn (awaitMeasure s)
        | .timeout => onAwTimeout (awaitMeasure s)
        | .outOfBand => onAwOut (awaitMeasure s) := by
  obtain ⟨h₁, h₂, h₃, h₄⟩ := awaitReads_iff.mp h
  refine ⟨h₁, h₂, ?_⟩
  unfold awaitRead
  rw [h₃, h₄]
  cases k <;> rfl

/-- Everything a class row of ReadingBits can do. -/
theorem readBitStep_of_class {r : Reading} {k : RbClass} {s : State} (h : bitReads r k s = true) :
    s.dec.st = .read ∧
      readBitStep s = match k with
        | .timeout => abort (bitMeasure s)
        | .abortShort => abort (bitMeasure s)
        | .abortLong => abort (bitMeasure s)
        | .one => onBit true (bitMeasure s)
        | .zero => onBit false (bitMeasure s) := by
  obtain ⟨h₁, h₂, h₃⟩ := bitReads_iff.mp h
  refine ⟨h₁, ?_⟩
  unfold readBitStep
  rw [h₂, h₃]
  cases k <;> rfl

/-- A class row of AwaitStart is an Effect. -/
theorem effect_of_awaitReads {r : Reading} {k : AwClass} {s t : State} (h : awaitReads r k s = true)
    (ht : awaitRead s = t) : Effect s t := by
  obtain ⟨h₁, h₂, -⟩ := awaitRead_of_class h
  exact ht ▸ .awaitRead h₁ h₂

/-- A class row of ReadingBits is an Effect. -/
theorem effect_of_bitReads {r : Reading} {k : RbClass} {s t : State} (h : bitReads r k s = true)
    (ht : readBitStep s = t) : Effect s t :=
  ht ▸ .readBitStep (readBitStep_of_class h).1

/-- NoStart on a timed-out read is D.AWAIT_READ. -/
theorem awaitRead_timeout {s : State} (h : nextAnswer s = none) (hp : s.cfg.dec.awaitTimeoutEnds = true) :
    awaitRead s = finish .noStart (awaitMeasure s) := by
  have hc : (awaitMeasure s).cfg = s.cfg := by simp [awaitMeasure]
  simp [awaitRead, h, onAwTimeout, hc, hp]

/-- Incomplete is D.READ_BIT on a reading that gives no bit. -/
theorem readBitStep_no_bit {s : State} (h : readBit? s.cfg.dec.err (nextAnswer s) = none) :
    readBitStep s = abort (bitMeasure s) := by
  rcases readBitStep_cases s with ⟨-, h₂⟩ | ⟨b, h₂, -⟩
  · exact h₂
  · simp [h] at h₂

/-- Everything an instruction that answers a next state can do. -/
theorem exec_effect {i : Instr} {s t : State} (h : exec i s = .next t) : Effect s t := by
  cases i with
  | transmit c => cases h; exact .requestTransmit c
  | ePreBurst => obtain ⟨⟨h₁, h₂⟩, rfl⟩ := whenSelected_next.mp h; exact .preBurst h₁ h₂
  | ePreSpace => obtain ⟨⟨h₁, h₂⟩, rfl⟩ := whenSelected_next.mp h; exact .preSpace h₁ h₂
  | eStartBurst => obtain ⟨⟨h₁, h₂⟩, rfl⟩ := whenSelected_next.mp h; exact .startBurst h₁ h₂
  | eStartSpace => obtain ⟨⟨h₁, h₂⟩, rfl⟩ := whenSelected_next.mp h; exact .startSpace h₁ h₂
  | eDataBurst => obtain ⟨⟨h₁, h₂⟩, rfl⟩ := whenSelected_next.mp h; exact .dataBurst h₁ h₂
  | eDataSpace => obtain ⟨⟨h₁, h₂⟩, rfl⟩ := whenSelected_next.mp h; exact .dataSpace h₁ h₂
  | eStop => obtain ⟨h₁, rfl⟩ := whenSelected_next.mp h; exact .stopGap h₁
  | receive => cases h; exact .requestReceive
  | dNostart => obtain ⟨⟨h₁, h₂⟩, rfl⟩ := whenSelected_next.mp h; exact .budgetSpent h₁ h₂
  | dAwaitRead => obtain ⟨⟨h₁, h₂⟩, rfl⟩ := whenSelected_next.mp h; exact .awaitRead h₁ h₂
  | dGuard => obtain ⟨h₁, rfl⟩ := whenSelected_next.mp h; exact .guardWait h₁
  | dReadBit => obtain ⟨h₁, rfl⟩ := whenSelected_next.mp h; exact .readBitStep h₁
  | symZero => obtain ⟨⟨h₁, h₂, -⟩, rfl⟩ := whenSelected_next.mp h; exact .dataPulse h₁ h₂
  | symOne => obtain ⟨⟨h₁, h₂, -⟩, rfl⟩ := whenSelected_next.mp h; exact .dataPulse h₁ h₂
  | symStart => obtain ⟨⟨h₁, h₂⟩, rfl⟩ := whenSelected_next.mp h; exact .startPulse h₁ h₂
  | symPre0 => obtain ⟨⟨h₁, h₂⟩, rfl⟩ := whenSelected_next.mp h; exact .prePulse h₁ h₂
  | symStop => obtain ⟨h₁, rfl⟩ := whenSelected_next.mp h; exact .stopGap h₁
  | frameWord side a c i =>
    cases side with
    | encoder => obtain ⟨⟨h₁, h₂, -⟩, rfl⟩ := whenSelected_next.mp h; exact .startTelegram c h₁ h₂
    | decoder => obtain ⟨h₁, rfl⟩ := whenSelected_next.mp h; exact .readBitStep (completedWord_state h₁).1
  | awIn d =>
    obtain ⟨h₁, rfl⟩ := whenSelected_next.mp h; exact effect_of_awaitReads h₁ (awaitRead_of_class h₁).2.2
  | awTimeout =>
    obtain ⟨h₁, rfl⟩ := whenSelected_next.mp h; exact effect_of_awaitReads h₁ (awaitRead_of_class h₁).2.2
  | awOut d =>
    obtain ⟨h₁, rfl⟩ := whenSelected_next.mp h; exact effect_of_awaitReads h₁ (awaitRead_of_class h₁).2.2
  | rbTimeout =>
    obtain ⟨h₁, rfl⟩ := whenSelected_next.mp h; exact effect_of_bitReads h₁ (readBitStep_of_class h₁).2
  | rbAbortShort d =>
    obtain ⟨h₁, rfl⟩ := whenSelected_next.mp h; exact effect_of_bitReads h₁ (readBitStep_of_class h₁).2
  | rbAbortLong d =>
    obtain ⟨h₁, rfl⟩ := whenSelected_next.mp h; exact effect_of_bitReads h₁ (readBitStep_of_class h₁).2
  | rbOne d =>
    obtain ⟨h₁, rfl⟩ := whenSelected_next.mp h; exact effect_of_bitReads h₁ (readBitStep_of_class h₁).2
  | rbZero d =>
    obtain ⟨h₁, rfl⟩ := whenSelected_next.mp h; exact effect_of_bitReads h₁ (readBitStep_of_class h₁).2
  | frameValidTrue a c i =>
    obtain ⟨⟨h₁, -⟩, rfl⟩ := whenSelected_next.mp h; exact .readBitStep (completedWord_state h₁).1
  | frameValidFalse a c i =>
    obtain ⟨⟨h₁, -⟩, rfl⟩ := whenSelected_next.mp h; exact .readBitStep (completedWord_state h₁).1
  | incomplete =>
    obtain ⟨⟨h₁, h₂⟩, rfl⟩ := whenSelected_next.mp h; exact readBitStep_no_bit h₂ ▸ .readBitStep h₁
  | noStart =>
    cases hg : triesGuard s with
    | eq =>
      have h' : whenSelected (s.dec.st = .await) (budgetSpent s) = .next t := by
        simpa only [exec, execNoStart, hg] using h
      obtain ⟨h₁, rfl⟩ := whenSelected_next.mp h'
      exact .budgetSpent h₁ hg
    | lt =>
      have h' : whenSelected (s.dec.st = .await ∧ nextAnswer s = none ∧ s.cfg.dec.awaitTimeoutEnds = true)
          (finish .noStart (awaitMeasure s)) = .next t := by
        simpa only [exec, execNoStart, hg] using h
      obtain ⟨⟨h₁, h₂, h₃⟩, rfl⟩ := whenSelected_next.mp h'
      exact awaitRead_timeout h₂ h₃ ▸ .awaitRead h₁ hg
    | gt => simp [exec, execNoStart, hg] at h
  | empty => obtain ⟨⟨h₁, h₂⟩, rfl⟩ := whenSelected_next.mp h; exact .startAttempt h₁ h₂
  | txkey k =>
    cases hk : registryOf s.cfg.enc.registry k with
    | none => simp [exec, execTxkey, hk] at h
    | some c =>
      have h' : requestTransmit c s = t := by simpa [exec, execTxkey, hk] using h
      exact h' ▸ .requestTransmit c
  | reset => cases h; exact .reset

/-- No operation touches the events still to come. -/
theorem effect_events {s t : State} (h : Effect s t) : t.events = s.events := by
  cases h with
  | requestTransmit c => rcases requestTransmit_cases c s with ⟨-, h⟩ | ⟨-, -, h⟩ | ⟨-, -, h⟩ <;> rw [h] <;> rfl
  | requestReceive => rcases requestReceive_cases s with ⟨-, h⟩ | ⟨-, -, h⟩ | ⟨-, -, h⟩ <;> rw [h] <;> rfl
  | awaitRead =>
    rcases awaitRead_cases s with ⟨-, h⟩ | ⟨-, -, h⟩ | ⟨-, -, h⟩ | ⟨-, h⟩ <;> rw [h] <;>
      simp [onAwIn, onAwOut, awaitMeasure]
  | readBitStep =>
    rcases readBitStep_cases s with ⟨-, h⟩ | ⟨b, -, h⟩ <;> rw [h]
    · simp [bitMeasure]
    · by_cases hn : (bitMeasure s).dec.n + 1 = 24
      · rw [onBit_completes hn]; simp [complete, bitMeasure]
      · rw [onBit_collects hn]; simp [bitMeasure]
  | _ => rfl

/-- A step takes exactly one event. -/
theorem step_events {s t : State} (h : step s = .next t) : t.events = (dropEvent s).events := by
  rcases step_next_cases h with ⟨i, -, hi⟩ | ⟨-, rfl⟩
  · exact effect_events (exec_effect hi)
  · rfl

end Sys2Proof.Machine
end

