-- ==== Sys2Proof/Laws/PerInstr.lean ====
section
/-! SUPPORT. Statements made instruction by instruction. EncodeFormat: the code of an instruction has the format that the
opcode table gives its row. -/

namespace Sys2Proof.Laws.EncodeFormat

/-- The code of i has the format of i's row, in every build. -/
def Statement (i : Instr) : Prop := ∀ b : Build, (encode b i).format = i.format

theorem transmit (c : Byte) : Statement (.transmit c) := fun _ => rfl
theorem ePreBurst : Statement .ePreBurst := fun _ => rfl
theorem ePreSpace : Statement .ePreSpace := fun _ => rfl
theorem eStartBurst : Statement .eStartBurst := fun _ => rfl
theorem eStartSpace : Statement .eStartSpace := fun _ => rfl
theorem eDataBurst : Statement .eDataBurst := fun _ => rfl
theorem eDataSpace : Statement .eDataSpace := fun _ => rfl
theorem eStop : Statement .eStop := fun _ => rfl
theorem receive : Statement .receive := fun _ => rfl
theorem dNostart : Statement .dNostart := fun _ => rfl
theorem dAwaitRead : Statement .dAwaitRead := fun _ => rfl
theorem dGuard : Statement .dGuard := fun _ => rfl
theorem dReadBit : Statement .dReadBit := fun _ => rfl
theorem symZero : Statement .symZero := fun _ => rfl
theorem symOne : Statement .symOne := fun _ => rfl
theorem symStart : Statement .symStart := fun _ => rfl
theorem symPre0 : Statement .symPre0 := fun _ => rfl
theorem symStop : Statement .symStop := fun _ => rfl
theorem frameWord (side : Side) (a : Byte) (c : Byte) (i : Byte) : Statement (.frameWord side a c i) := fun _ => rfl
theorem awIn (d : Nat) : Statement (.awIn d) := fun _ => rfl
theorem awTimeout : Statement .awTimeout := fun _ => rfl
theorem awOut (d : Nat) : Statement (.awOut d) := fun _ => rfl
theorem rbTimeout : Statement .rbTimeout := fun _ => rfl
theorem rbAbortShort (d : Nat) : Statement (.rbAbortShort d) := fun _ => rfl
theorem rbAbortLong (d : Nat) : Statement (.rbAbortLong d) := fun _ => rfl
theorem rbOne (d : Nat) : Statement (.rbOne d) := fun _ => rfl
theorem rbZero (d : Nat) : Statement (.rbZero d) := fun _ => rfl
theorem frameValidTrue (a : Byte) (c : Byte) (i : Byte) : Statement (.frameValidTrue a c i) := fun _ => rfl
theorem frameValidFalse (a : Byte) (c : Byte) (i : Byte) : Statement (.frameValidFalse a c i) := fun _ => rfl
theorem incomplete : Statement .incomplete := fun _ => rfl
theorem noStart : Statement .noStart := fun _ => rfl
theorem empty : Statement .empty := fun _ => rfl
theorem txkey (k : Nat) : Statement (.txkey k) := fun _ => rfl
theorem reset : Statement .reset := fun _ => rfl

end Sys2Proof.Laws.EncodeFormat
end

