-- ==== Sys2Proof/Tests/Slice0.lean ====
section
/-! SUPPORT. Tests. Expected values come from spec/95_test_vectors.md (ids S, K, W, E, D, F, M in the comments) and from
the encoding tables of spec/30_encoding.md. The last part shows, for each statement with hypotheses, a state and operands
that meet them. -/

namespace Sys2Proof.Tests

open Sys2Proof.Machine

/-! ### Builders -/

/-- The configuration of vectors E1 to E12, with a decoder of the same base unit and a budget of 5 reads. -/
def small : Build :=
  { enc := { err := 100, p := 2, s := 2, r := 2, tec := 10, addr := 0xC3#8,
             registry := ⟨0x11#8, 0x22#8, 0x33#8, 0x44#8, 0x5A#8⟩ },
    dec := { err := 100, s := 2, toStart := 1400, guardDelay := 200, toBit := 1000,
             startTries := .reads 5, awaitTimeoutEnds := false } }

/-- The small configuration with a decoder whose budget is infinite and which ends an attempt at a timeout. -/
def strict : Build := { small with dec := { small.dec with startTries := .unlimited, awaitTimeoutEnds := true } }

/-- An ill-formed configuration on both sides (K6, K9). -/
def illFormed : Build := { enc := { small.enc with tec := 200 }, dec := { small.dec with toBit := 0 } }

/-- An encoder in the middle of the telegram of 0x5A. -/
def encAt (st : EncSt) (ph : Phase) (pc sc rc bi : Nat) : State :=
  { State.resetOf small with
    enc := { st := st, ph := ph, pc := pc, sc := sc, rc := rc, bi := bi, fw := 0xC35AA5#24,
             carrier := if ph = .space then .on else .off } }

/-- A decoder of a build, and the answers it is to get. -/
def decAt (b : Build) (st : DecSt) (sc tries n : Nat) (acc : Frame24) (answers : List Reading) : State :=
  { State.resetOf b with
    dec := { st := st, sc := sc, tries := tries, n := n, acc := acc, res := .empty }
    answers := answers }

/-- A decoder that is to read the bits of a build from its first reading on. -/
def reading (answers : List Reading) : State := decAt small .read 2 4 23 0x61AD52#24 answers

/-- A good state with a busy encoder and a decoder that has read 23 bits. -/
def busy : State :=
  { reading [some 400] with enc := (encAt .data .space 2 2 0 5).enc, events := [.move .encoder] }

/-- A state with one event placed. -/
def withEvent (ev : Event) (s : State) : State := { s with events := [ev] }

/-- The next state of an outcome, if it is one. -/
def after : Host.Outcome State Fault Refusal → Option State
  | .next s => some s
  | .fault _ => none
  | .refused _ => none

/-- The refusal of an outcome, if it is one. -/
def refusal : Host.Outcome State Fault Refusal → Option Refusal
  | .next _ => none
  | .fault _ => none
  | .refused r => some r

/-- The encoder registers after an instruction. -/
def encAfter (i : Instr) (s : State) : Option EncState := (after (exec i s)).map (·.enc)

/-- The decoder registers after an instruction. -/
def decAfter (i : Instr) (s : State) : Option DecState := (after (exec i s)).map (·.dec)

/-- The segments an instruction emits from a state with an empty record. -/
def emitted (i : Instr) (s : State) : Option (List Segment) := (after (exec i s)).map (fun t => emittedSegments t.encLog)

/-! ### WellFormed refuses an ill-formed term of each check -/

theorem test_wellFormed_key_too_low : wellFormed small (.txkey 0) = false := by decide
theorem test_wellFormed_key_too_high : wellFormed small (.txkey 6) = false := by decide
theorem test_wellFormed_key_five : wellFormed small (.txkey 5) = true := by decide
theorem test_wellFormed_symbols_need_configuration :
    [Instr.symZero, .symOne, .symStart, .symPre0, .symStop].map (wellFormed illFormed) = List.replicate 5 false := by
  decide
theorem test_wellFormed_frameWord_wrong_address :
    wellFormed small (.frameWord .encoder 0xC2#8 0x5A#8 0xA5#8) = false := by decide
theorem test_wellFormed_frameWord_wrong_inverse :
    wellFormed small (.frameWord .encoder 0xC3#8 0x5A#8 0xA4#8) = false := by decide
theorem test_wellFormed_awIn_outside : wellFormed small (.awIn 499) = false := by decide
theorem test_wellFormed_awOut_inside : wellFormed small (.awOut 700) = false := by decide
theorem test_wellFormed_rbAbortShort_long : wellFormed small (.rbAbortShort 100) = false := by decide
theorem test_wellFormed_rbAbortLong_short : wellFormed small (.rbAbortLong 500) = false := by decide
theorem test_wellFormed_rbOne_at_split : wellFormed small (.rbOne 300) = false := by decide
theorem test_wellFormed_rbZero_past_split : wellFormed small (.rbZero 301) = false := by decide
theorem test_wellFormed_frameValidTrue_bad_check : wellFormed small (.frameValidTrue 0xC3#8 0x5A#8 0xA4#8) = false := by
  decide
theorem test_wellFormed_frameValidFalse_good_check :
    wellFormed small (.frameValidFalse 0xC3#8 0x5A#8 0xA5#8) = false := by decide

/-- K5 to K10: the configurations of R113. -/
theorem test_wellFormed_configurations :
    wellFormedEnc { small.enc with tec := 199 } = true ∧ wellFormedEnc { small.enc with tec := 200 } = false ∧
    wellFormedEnc { small.enc with err := 0, tec := 0 } = false ∧ wellFormedEnc { small.enc with s := 0 } = false ∧
    wellFormedEnc { small.enc with r := 0 } = false ∧ wellFormedEnc { small.enc with p := 0 } = true ∧
    wellFormedDec { small.dec with s := 0 } = false ∧ wellFormedDec { small.dec with toBit := 0 } = false ∧
    wellFormedDec { small.dec with err := 0 } = false ∧ wellFormedDec { small.dec with toStart := 0 } = false ∧
    wellFormedDec { small.dec with guardDelay := 0, startTries := .reads 0 } = true := by decide

/-! ### Decoding, words and codes written out from 30_encoding.md -/

/-- The ENC_SEL words of R95. -/
theorem test_decode_encSel :
    decodeEncSel 0b0000#4 (some 0x5A#8) = .ok (.transmit 0x5A#8) ∧ decodeEncSel 0b0010#4 none = .ok .ePreBurst ∧
    decodeEncSel 0b0011#4 none = .ok .ePreSpace ∧ decodeEncSel 0b0100#4 none = .ok .eStartBurst ∧
    decodeEncSel 0b0101#4 none = .ok .eStartSpace ∧ decodeEncSel 0b0110#4 none = .ok .eDataBurst ∧
    decodeEncSel 0b0111#4 none = .ok .eDataSpace ∧ decodeEncSel 0b1000#4 none = .ok .eStop := by decide

/-- E.ph is ignored in IDLE and STOP; a busy unit's request is the TRANSMIT of R132; state codes 5 to 7 are unused. -/
theorem test_decode_encSel_rest :
    decodeEncSel 0b0001#4 (some 0x01#8) = .ok (.transmit 0x01#8) ∧ decodeEncSel 0b1001#4 none = .ok .eStop ∧
    decodeEncSel 0b0110#4 (some 0x02#8) = .ok (.transmit 0x02#8) ∧ decodeEncSel 0b0000#4 none = .rejected .noStep ∧
    decodeEncSel 0b1010#4 none = .rejected .unusedState ∧ decodeEncSel 0b1101#4 none = .rejected .unusedState ∧
    decodeEncSel 0b1111#4 (some 0#8) = .rejected .unusedState := by decide

/-- The DEC_SEL words of R96. -/
theorem test_decode_decSel :
    decodeDecSel 0b000#3 true .lt = .ok .receive ∧ decodeDecSel 0b100#3 true .lt = .ok .receive ∧
    decodeDecSel 0b001#3 false .eq = .ok .dNostart ∧ decodeDecSel 0b001#3 false .lt = .ok .dAwaitRead ∧
    decodeDecSel 0b010#3 false .lt = .ok .dGuard ∧ decodeDecSel 0b011#3 false .lt = .ok .dReadBit ∧
    decodeDecSel 0b011#3 true .lt = .ok .receive ∧ decodeDecSel 0b000#3 false .lt = .rejected .noStep ∧
    decodeDecSel 0b100#3 false .lt = .rejected .noStep ∧ decodeDecSel 0b001#3 false .gt = .rejected .noGuard ∧
    decodeDecSel 0b101#3 true .lt = .rejected .unusedState := by decide

/-- The symbols of R81 to R85 and S9, with TEC = 10 for SYM_PRE0. -/
theorem test_decode_symbol :
    decode small (.symbol .data [⟨.on, 200⟩, ⟨.off, 200⟩]) = .ok .symZero ∧
    decode small (.symbol .data [⟨.on, 400⟩, ⟨.off, 400⟩]) = .ok .symOne ∧
    decode small (.symbol .start [⟨.on, 600⟩, ⟨.off, 600⟩]) = .ok .symStart ∧
    decode small (.symbol .pre [⟨.on, 200⟩, ⟨.off, 190⟩]) = .ok .symPre0 ∧
    decode small (.symbol .stop [⟨.off, 800⟩]) = .ok .symStop ∧
    decode small (.symbol .data [⟨.on, 200⟩, ⟨.off, 190⟩]) = .rejected .noSymbol := by decide

/-- W1: the frame word 0xC35AA5, its three bytes written out; W4's bytes for a wrong inverse. -/
theorem test_decode_frame24 :
    decode small (.frame24 .encoder 0b110000110101101010100101#24) = .ok (.frameWord .encoder 0xC3#8 0x5A#8 0xA5#8) ∧
    decode small (.frame24 .decoder 0b101000000000111111110000#24) = .ok (.frameWord .decoder 0xA0#8 0x0F#8 0xF0#8) ∧
    decode small (.frame24 .encoder 0b110000110101101010100100#24) = .rejected .noFrameWord := by decide

/-- W10. -/
theorem test_decode_classAwait :
    [some 499, some 500, some 600, some 700, some 701, none].map (fun r => decode small (.classAwait r)) =
      [Decoded.ok (.awOut 499), .ok (.awIn 500), .ok (.awIn 600), .ok (.awIn 700), .ok (.awOut 701),
       .ok .awTimeout] := by decide

/-- W11, S1 and S2. -/
theorem test_decode_classRead :
    [some 0, some 99, some 100, some 200, some 300, some 301, some 400, some 500, some 501, some 600, none].map
        (fun r => decode small (.classRead r)) =
      [Decoded.ok (.rbAbortShort 0), .ok (.rbAbortShort 99), .ok (.rbZero 100), .ok (.rbZero 200), .ok (.rbZero 300),
       .ok (.rbOne 301), .ok (.rbOne 400), .ok (.rbOne 500), .ok (.rbAbortLong 501), .ok (.rbAbortLong 600),
       .ok .rbTimeout] := by decide

/-- The result kinds of R93, with the valid flags of F1 and F2. -/
theorem test_decode_result :
    decode small (.result (.frame 0xC3#8 0x5A#8 0xA5#8 true)) = .ok (.frameValidTrue 0xC3#8 0x5A#8 0xA5#8) ∧
    decode small (.result (.frame 0xC3#8 0x5A#8 0xA4#8 false)) = .ok (.frameValidFalse 0xC3#8 0x5A#8 0xA4#8) ∧
    decode small (.result .incomplete) = .ok .incomplete ∧ decode small (.result .noStart) = .ok .noStart ∧
    decode small (.result .empty) = .ok .empty ∧
    decode small (.result (.frame 0xC3#8 0x5A#8 0xA4#8 true)) = .rejected .noResult := by decide

/-- R97 and R250. -/
theorem test_decode_pseudo_and_event :
    decode small (.pseudo 5) = .ok (.txkey 5) ∧ decode small (.pseudo 6) = .rejected .unknownKey ∧
    decode small .event = .ok .reset := by decide

/-- The words of the opcode table, in its own numbering. -/
theorem test_decodeTableWord :
    decodeTableWord 8 0b0000 = some (.transmit 0#8) ∧ decodeTableWord 8 0b0010 = some .ePreBurst ∧
    decodeTableWord 8 0b1000 = some .eStop ∧ decodeTableWord 3 0b010 = some .dGuard ∧
    decodeTableWord 24 0xC35AA5 = some (.frameWord .decoder 0xC3#8 0x5A#8 0xA5#8) ∧
    decodeTableWord 8 0b1010 = none := by decide

/-! ### The protocol -/

/-- W5 and W6 and W7: the wire order and the accumulator. -/
theorem test_wire_order_and_accumulator :
    [0, 1, 2, 23].map (frameBit 0xC35AA5#24) = [true, true, false, true] ∧
    shiftIn (shiftIn (shiftIn 0#24 true) true) false = 0x000006#24 ∧ shiftIn 0xFFFFFF#24 false = 0xFFFFFE#24 := by
  decide

/-- R191 asks for a budget of max(P + S_ENC, 2*S_ENC + 24), here 28. With the first repetition replaced by 1000s, an
attempt with a budget of 29 reads the preamble (2), the lost repetition (26) and one start pulse; the next attempt then
finds one start pulse before the data of repetition 2, and does not sync on it. -/
theorem test_lost_first_repetition_needs_more_budget :
    let k : DecConfig := { small.dec with startTries := .reads 29 }
    let rep2 := startReadings 100 2 ++ frameReadings 100 0xC35AA5#24
    let stream := preReadings 100 2 ++ List.replicate 26 (some 1000) ++ rep2
    decodeAttempt k stream = .result .noStart 29 ∧ decodeAttempt k (stream.drop 29) = .pending := by decide

/-- R191 without corruption: attempt k decodes repetition k, in P + S + 24 readings and then in S + 24. -/
theorem test_retryLoop_receives_every_repetition :
    retryLoop small.dec 3 (idealReadings (telegram small.enc 0x5A#8) 0) =
      [(.frame 0xC3#8 0x5A#8 0xA5#8 true, 28), (.frame 0xC3#8 0x5A#8 0xA5#8 true, 26)] := by decide

/-- The pseudocode of R174, R176 and R177 run by hand with S_ENC 3 and S_DEC 1: sync on start pulse 1, an abort on start
pulse 2; the retry syncs on start pulse 3 and reads the frame. R193 says that every attempt that syncs reports Incomplete
(assumption log 26). -/
theorem test_retryLoop_start_count_mismatch :
    retryLoop { small.dec with s := 1 } 2
        (idealReadings (telegram { small.enc with s := 3, r := 1 } 0x5A#8) 0) =
      [(.incomplete, 4), (.frame 0xC3#8 0x5A#8 0xA5#8 true, 25)] := by decide

/-- The pseudocode of R174, R176 and R181 run by hand with ERR_ENC 100, ERR_DEC 120, S_ENC 4 and S_DEC 1: a start pulse
of 600 is in the band from 5*120 to 7*120 and is a bit 1 too (R94), so the bits read are three 1s, the address 0x00 and
the first five bits of 0x07 and then of 0xF8: 0xE0, 0x00, 0xFF, with an inverse that passes the check. The correct frame is
0x00, 0x07, 0xF8. R255 says that no mismatch yields this (assumption log 26). -/
theorem test_mismatch_yields_a_wrong_valid_frame :
    classifyAwait 120 (some 600) = .inBand ∧ readBit? 120 (some 600) = some true ∧
    decodeAttempt { small.dec with err := 120, s := 1 }
        (idealReadings (telegram { small.enc with s := 4, r := 1, addr := 0x00#8 } 0x07#8) 0) =
      .result (.frame 0xE0#8 0x00#8 0xFF#8 true) 27 := by decide

/-- K4 and F1 to F6. -/
theorem test_complement_and_valid :
    [0x00#8, 0xFF#8, 0x5A#8, 0x01#8, 0x80#8].map complement = [0xFF#8, 0x00#8, 0xA5#8, 0xFE#8, 0x7F#8] ∧
    [(0x5A#8, 0xA5#8), (0x5A#8, 0xA4#8), (0x00#8, 0xFF#8), (0xFF#8, 0x00#8), (0x00#8, 0x00#8), (0xFF#8, 0xFF#8)].map
        (fun p => validFlag p.1 p.2) = [true, false, true, true, false, false] := by decide

/-- W1 to W4. -/
theorem test_frame_words :
    frameWordOf 0xC3#8 0x5A#8 = 0xC35AA5#24 ∧ frameWordOf 0x00#8 0x00#8 = 0x0000FF#24 ∧
    frameWordOf 0xFF#8 0xFF#8 = 0xFFFF00#24 ∧ frameWordOf 0xA0#8 0x0F#8 = 0xA00FF0#24 := by decide

/-! ### The encoder's steps -/

/-- E1. -/
theorem test_transmit_accepts :
    encAfter (.transmit 0x5A#8) (State.resetOf small) = some
      { st := .pre, ph := .burst, pc := 0, sc := 0, rc := 0, bi := 0, fw := 0xC35AA5#24, carrier := .off } := by decide
/-- E12. -/
theorem test_transmit_overlaps :
    after (exec (.transmit 0x01#8) (encAt .pre .burst 0 0 0 0)) =
      some { encAt .pre .burst 0 0 0 0 with faults := ⟨false, true, false⟩ } := by decide
/-- E2. -/
theorem test_ePreBurst : emitted .ePreBurst (encAt .pre .burst 0 0 0 0) = some [⟨.on, 200⟩] := by decide
/-- E3. -/
theorem test_ePreSpace :
    encAfter .ePreSpace (encAt .pre .space 0 0 0 0) = some (encAt .pre .burst 1 0 0 0).enc ∧
    emitted .ePreSpace (encAt .pre .space 0 0 0 0) = some [⟨.off, 190⟩] := by decide
/-- E4. -/
theorem test_ePreSpace_last :
    encAfter .ePreSpace (encAt .pre .space 1 0 0 0) = some (encAt .start .burst 2 0 0 0).enc := by decide
/-- E5. -/
theorem test_eStartBurst :
    encAfter .eStartBurst (encAt .start .burst 2 0 0 0) = some (encAt .start .space 2 0 0 0).enc ∧
    emitted .eStartBurst (encAt .start .burst 2 0 0 0) = some [⟨.on, 600⟩] := by decide
/-- E6; a stale bit index is cleared (R136). -/
theorem test_eStartSpace :
    encAfter .eStartSpace (encAt .start .space 2 1 0 24) = some (encAt .data .burst 2 2 0 0).enc ∧
    emitted .eStartSpace (encAt .start .space 2 1 0 24) = some [⟨.off, 600⟩] := by decide
/-- E7 and E8. -/
theorem test_eDataBurst :
    emitted .eDataBurst (encAt .data .burst 2 2 0 0) = some [⟨.on, 400⟩] ∧
    emitted .eDataBurst (encAt .data .burst 2 2 0 2) = some [⟨.on, 200⟩] := by decide
/-- E9. -/
theorem test_eDataSpace :
    encAfter .eDataSpace (encAt .data .space 2 2 0 23) = some (encAt .stop .burst 2 2 0 24).enc ∧
    emitted .eDataSpace (encAt .data .space 2 2 0 23) = some [⟨.off, 400⟩] := by decide
/-- E10. -/
theorem test_eStop_next_repetition :
    encAfter .eStop (encAt .stop .burst 2 2 0 24) = some (encAt .start .burst 2 0 1 24).enc ∧
    emitted .eStop (encAt .stop .burst 2 2 0 24) = some [⟨.off, 800⟩] := by decide
/-- E11. -/
theorem test_eStop_last : encAfter .eStop (encAt .stop .burst 2 2 1 24) = some (encAt .idle .burst 2 2 2 24).enc := by
  decide
/-- R80 and R81: bit 21 of 0xC35AA5 is 0. -/
theorem test_symZero :
    emitted .symZero (encAt .data .burst 2 2 0 2) = some [⟨.on, 200⟩, ⟨.off, 200⟩] ∧
    refusal (exec .symOne (encAt .data .burst 2 2 0 2)) = some .notSelected := by decide
/-- R82: bit 23 of 0xC35AA5 is 1. -/
theorem test_symOne : emitted .symOne (encAt .data .burst 2 2 0 0) = some [⟨.on, 400⟩, ⟨.off, 400⟩] := by decide
/-- R83. -/
theorem test_symStart : emitted .symStart (encAt .start .burst 2 0 0 0) = some [⟨.on, 600⟩, ⟨.off, 600⟩] := by decide
/-- R84 with TEC = 10. -/
theorem test_symPre0 : emitted .symPre0 (encAt .pre .burst 0 0 0 0) = some [⟨.on, 200⟩, ⟨.off, 190⟩] := by decide
/-- R85: no burst. -/
theorem test_symStop : emitted .symStop (encAt .stop .burst 2 2 0 24) = some [⟨.off, 800⟩] := by decide
/-- W1: the encoder forms 0xC35AA5. -/
theorem test_frameWord_formed :
    (encAfter (.frameWord .encoder 0xC3#8 0x5A#8 0xA5#8) (State.resetOf small)).map (·.fw) = some 0xC35AA5#24 := by decide

/-! ### The decoder's steps -/

/-- R171: a new attempt clears what the one before left. -/
theorem test_receive :
    decAfter .receive { decAt small .done 2 4 24 0xC35AA5#24 [] with dec := ⟨.done, 2, 4, 24, 0xC35AA5#24, .noStart⟩ } =
      some ⟨.await, 0, 0, 0, 0#24, .empty⟩ := by decide
/-- R172. -/
theorem test_receive_overlaps :
    (after (exec .receive (decAt small .read 2 4 3 5#24 []))).map (·.faults) = some ⟨false, false, true⟩ := by decide
/-- D6: the count stays as it is. -/
theorem test_dNostart : decAfter .dNostart (decAt small .await 1 5 0 0#24 []) = some ⟨.done, 1, 5, 0, 0#24, .noStart⟩ := by
  decide
/-- D2: the S-th start pulse enters SYNCED in the same step; D3: 499 resets the count. -/
theorem test_dAwaitRead :
    decAfter .dAwaitRead (decAt small .await 1 3 0 0#24 [some 700]) = some ⟨.synced, 2, 4, 0, 0#24, .empty⟩ ∧
    decAfter .dAwaitRead (decAt small .await 1 3 0 0#24 [some 499]) = some ⟨.await, 0, 4, 0, 0#24, .empty⟩ := by decide
/-- D4 and D5: a timeout under either policy. -/
theorem test_dAwaitRead_timeout :
    decAfter .dAwaitRead (decAt small .await 1 3 0 0#24 [none]) = some ⟨.await, 0, 4, 0, 0#24, .empty⟩ ∧
    decAfter .dAwaitRead (decAt strict .await 1 3 0 0#24 [none]) = some ⟨.done, 1, 4, 0, 0#24, .noStart⟩ := by decide
/-- R175: no answer is consumed. -/
theorem test_dGuard :
    (after (exec .dGuard (decAt small .synced 2 4 7 7#24 [some 400]))).map (fun t => (t.dec, t.answers, t.decLog)) =
      some (⟨.read, 2, 4, 0, 0#24, .empty⟩, [some 400], [.wait 200]) := by decide
/-- D9, and D15's abort. -/
theorem test_dReadBit :
    decAfter .dReadBit (decAt small .read 2 4 0 0#24 [some 400]) = some ⟨.read, 2, 4, 1, 1#24, .empty⟩ ∧
    decAfter .dReadBit (decAt small .read 2 4 23 0x61AD52#24 [none]) =
      some ⟨.done, 2, 4, 0, 0#24, .incomplete⟩ := by decide
/-- D8: the 24th bit completes 0xC35AA5. -/
theorem test_dReadBit_completes :
    decAfter .dReadBit (reading [some 400]) =
      some ⟨.done, 2, 4, 24, 0xC35AA5#24, .frame 0xC3#8 0x5A#8 0xA5#8 true⟩ := by decide
/-- W10, in the machine. -/
theorem test_await_classes :
    decAfter (.awIn 500) (decAt small .await 0 0 0 0#24 [some 500]) = some ⟨.await, 1, 1, 0, 0#24, .empty⟩ ∧
    decAfter (.awOut 701) (decAt small .await 1 0 0 0#24 [some 701]) = some ⟨.await, 0, 1, 0, 0#24, .empty⟩ ∧
    decAfter .awTimeout (decAt strict .await 1 1 0 0#24 [none]) = some ⟨.done, 1, 2, 0, 0#24, .noStart⟩ ∧
    refusal (exec (.awIn 500) (decAt small .await 0 0 0 0#24 [some 600])) = some .notSelected := by decide
/-- W11, in the machine: D10, D16, D11. -/
theorem test_read_classes_abort :
    decAfter (.rbAbortShort 99) (reading [some 99]) = some ⟨.done, 2, 4, 0, 0#24, .incomplete⟩ ∧
    decAfter (.rbAbortLong 501) (reading [some 501]) = some ⟨.done, 2, 4, 0, 0#24, .incomplete⟩ ∧
    decAfter .rbTimeout (reading [none]) = some ⟨.done, 2, 4, 0, 0#24, .incomplete⟩ := by decide
/-- S1. -/
theorem test_read_classes_bits :
    decAfter (.rbOne 301) (decAt small .read 2 4 2 3#24 [some 301]) = some ⟨.read, 2, 4, 3, 7#24, .empty⟩ ∧
    decAfter (.rbZero 300) (decAt small .read 2 4 2 3#24 [some 300]) = some ⟨.read, 2, 4, 3, 6#24, .empty⟩ := by decide
/-- F1 and F2, in the machine. -/
theorem test_frame_results :
    (decAfter (.frameValidTrue 0xC3#8 0x5A#8 0xA5#8) (reading [some 400])).map (·.res) =
      some (.frame 0xC3#8 0x5A#8 0xA5#8 true) ∧
    (decAfter (.frameValidFalse 0xC3#8 0x5A#8 0xA4#8) (reading [some 200])).map (·.res) =
      some (.frame 0xC3#8 0x5A#8 0xA4#8 false) ∧
    refusal (exec (.frameValidTrue 0xC3#8 0x5A#8 0xA4#8) (reading [some 200])) = some .notSelected := by decide
/-- S11: the completed word. -/
theorem test_frameWord_completed :
    (decAfter (.frameWord .decoder 0xC3#8 0x5A#8 0xA5#8) (reading [some 400])).map (·.acc) = some 0xC35AA5#24 := by
  decide
/-- R93: the other results. -/
theorem test_other_results :
    (decAfter .incomplete (reading [some 600])).map (·.res) = some .incomplete ∧
    (decAfter .noStart (decAt small .await 1 5 0 0#24 [])).map (·.res) = some .noStart ∧
    (decAfter .noStart (decAt strict .await 1 5 0 0#24 [none])).map (·.res) = some .noStart ∧
    (decAfter .empty (State.resetOf small)).map (·.st) = some .await := by decide
/-- R97: KEY5 stands for 0x5A in the registry used here. -/
theorem test_txkey :
    (encAfter (.txkey 5) (State.resetOf small)).map (·.fw) = some 0xC35AA5#24 ∧
    refusal (exec (.txkey 6) (State.resetOf small)) = some (.unknownKey 6) := by decide
/-- R250: RESET in the middle of a telegram; the fault record stays. -/
theorem test_reset :
    (after (exec .reset { encAt .data .space 2 2 0 5 with faults := ⟨false, true, false⟩ })).map
        (fun t => (t.enc, t.dec, t.faults)) = some (EncState.reset, DecState.reset, ⟨false, true, false⟩) := by decide

/-! ### Steps -/

/-- The encoder's move runs what `E.st ++ E.ph` selects. -/
theorem test_step_encoder :
    (after (step (withEvent (.move .encoder) (encAt .start .burst 2 0 0 0)))).map (·.enc) =
      some (encAt .start .space 2 0 0 0).enc := by decide
/-- The decoder's move with a spent budget is D.NOSTART. -/
theorem test_step_decoder :
    (after (step (withEvent (.move .decoder) (decAt small .await 1 5 0 0#24 [])))).map (·.dec.res) = some .noStart := by
  decide
/-- A word of the table runs as the first instruction after reset. -/
theorem test_withFetchWord :
    (after (step (State.reset.withFetchWord 8 0b1000))).map (fun t => (t.enc.st, emittedSegments t.encLog)) =
      some (.start, [⟨.off, 800⟩]) := by decide

/-! ### What meets the hypotheses of the statements -/

section Witnesses

/-- TransmitFromIdle: both clauses, TEC at 2*ERR - 1 and at 2*ERR. -/
theorem witness_TransmitFromIdle :
    ∃ s u : State, s.enc.st = .idle ∧ u.enc.st = .idle ∧
      (1 ≤ s.cfg.enc.err ∧ 1 ≤ s.cfg.enc.s ∧ 1 ≤ s.cfg.enc.r ∧ s.cfg.enc.tec ≤ 2 * s.cfg.enc.err - 1) ∧
      ¬ (1 ≤ u.cfg.enc.err ∧ 1 ≤ u.cfg.enc.s ∧ 1 ≤ u.cfg.enc.r ∧ u.cfg.enc.tec ≤ 2 * u.cfg.enc.err - 1) :=
  ⟨State.resetOf { small with enc := { small.enc with tec := 199 } }, State.resetOf illFormed, by decide⟩

theorem witness_TransmitWhileBusyIsDiscarded : ∃ s : State, s.enc.st ≠ .idle :=
  ⟨encAt .pre .burst 0 0 0 0, by decide⟩

/-- PreamblePulseSteps: a burst, and the space of the last zero-bit. -/
theorem witness_PreamblePulseSteps :
    ∃ s u : State, (s.enc.st = .pre ∧ s.enc.ph = .burst) ∧
      (u.enc.st = .pre ∧ u.enc.ph = .space ∧ u.cfg.enc.tec ≤ 2 * u.cfg.enc.err - 1 ∧ u.enc.pc + 1 = u.cfg.enc.p) :=
  ⟨encAt .pre .burst 0 0 0 0, encAt .pre .space 1 0 0 0, by decide⟩

theorem witness_StartPulseSteps :
    ∃ s u : State, (s.enc.st = .start ∧ s.enc.ph = .burst) ∧
      (u.enc.st = .start ∧ u.enc.ph = .space ∧ u.enc.sc + 1 = u.cfg.enc.s) :=
  ⟨encAt .start .burst 2 0 0 0, encAt .start .space 2 1 0 0, by decide⟩

/-- DataBitSteps: the first and the last position. -/
theorem witness_DataBitSteps :
    ∃ s u : State, (s.enc.st = .data ∧ s.enc.bi < 24 ∧ s.enc.ph = .burst ∧ s.enc.bi = 0) ∧
      (u.enc.st = .data ∧ u.enc.bi < 24 ∧ u.enc.ph = .space ∧ u.enc.bi = 23) :=
  ⟨encAt .data .burst 2 2 0 0, encAt .data .space 2 2 0 23, by decide⟩

theorem witness_StopGapEndsARepetition :
    ∃ s u : State, (s.enc.st = .stop ∧ s.enc.rc + 1 = s.cfg.enc.r) ∧ (u.enc.st = .stop ∧ u.enc.rc + 1 ≠ u.cfg.enc.r) :=
  ⟨encAt .stop .burst 2 2 1 24, encAt .stop .burst 2 2 0 24, by decide⟩

/-- SymbolRowsEmitTheirTwoSegments: a state for each of the five symbols. -/
theorem witness_SymbolRows :
    ∃ z o t p q : State,
      (z.enc.st = .data ∧ z.enc.ph = .burst ∧ z.enc.bi < 24 ∧ z.enc.fw.getLsbD (23 - z.enc.bi) = false) ∧
      (o.enc.st = .data ∧ o.enc.ph = .burst ∧ o.enc.bi < 24 ∧ o.enc.fw.getLsbD (23 - o.enc.bi) = true) ∧
      (t.enc.st = .start ∧ t.enc.ph = .burst) ∧
      (p.enc.st = .pre ∧ p.enc.ph = .burst ∧ p.cfg.enc.tec ≤ 2 * p.cfg.enc.err - 1) ∧ q.enc.st = .stop :=
  ⟨encAt .data .burst 2 2 0 2, encAt .data .burst 2 2 0 23, encAt .start .burst 2 0 0 0, encAt .pre .burst 0 0 0 0,
    encAt .stop .burst 2 2 0 24, by decide⟩

theorem witness_FrameWordIsFormedAndCompleted :
    ∃ s u : State, (s.enc.st = .idle ∧ wellFormedEnc s.cfg.enc = true) ∧
      (u.dec.st = .read ∧ u.dec.n = 23 ∧ readBit? u.cfg.dec.err (nextAnswer u) = some true ∧
        shiftIn u.dec.acc true = 0xC3#8 ++ 0x5A#8 ++ 0xA5#8) :=
  ⟨State.resetOf small, reading [some 301], by decide⟩

/-- ReceiveFromIdleOrDone: both clauses, one from IDLE and one from DONE. -/
theorem witness_ReceiveFromIdleOrDone :
    ∃ s u : State, (s.dec.st = .idle ∧
        1 ≤ s.cfg.dec.err ∧ 1 ≤ s.cfg.dec.s ∧ 1 ≤ s.cfg.dec.toStart ∧ 1 ≤ s.cfg.dec.toBit) ∧
      (u.dec.st = .done ∧
        ¬ (1 ≤ u.cfg.dec.err ∧ 1 ≤ u.cfg.dec.s ∧ 1 ≤ u.cfg.dec.toStart ∧ 1 ≤ u.cfg.dec.toBit)) :=
  ⟨State.resetOf small, decAt illFormed .done 0 0 0 0#24 [], by decide⟩

theorem witness_ReceiveWhileBusyIsDiscarded :
    ∃ s u v : State, s.dec.st = .await ∧ u.dec.st = .synced ∧ v.dec.st = .read :=
  ⟨decAt small .await 0 0 0 0#24 [], decAt small .synced 2 2 0 0#24 [], reading [], by decide⟩

/-- NoStartWhenTheBudgetIsSpent: a budget of 5 and an infinite one. -/
theorem witness_NoStartWhenTheBudgetIsSpent :
    ∃ s u : State, (s.dec.st = .await ∧ s.cfg.dec.startTries = .reads s.dec.tries) ∧
      (u.dec.st = .await ∧ u.cfg.dec.startTries = .unlimited) :=
  ⟨decAt small .await 1 5 0 0#24 [], decAt strict .await 1 5 0 0#24 [], by decide⟩

/-- AReadTakesTheNextAnswer: each read step with answers listed and with none. -/
theorem witness_AReadTakesTheNextAnswer :
    ∀ rs ∈ [[], [some 400, none]],
      ((decAt small .await 1 4 0 0#24 rs).dec.st = .await ∧ triesGuard (decAt small .await 1 4 0 0#24 rs) = .lt ∧
        (decAt small .await 1 4 0 0#24 rs).answers = rs) ∧
      ((reading rs).dec.st = .read ∧ (reading rs).answers = rs) := by decide

/-- AwaitReadCountsStartPulses: each clause, at the ends of the start band. -/
theorem witness_AwaitReadCountsStartPulses :
    ∀ b ∈ [small, strict], ∀ r ∈ [some 500, some 700, some 499, some 701, none],
      (decAt b .await 1 4 0 0#24 [r]).dec.st = .await ∧
      compareBudget (decAt b .await 1 4 0 0#24 [r]).dec.tries b.dec.startTries = .lt ∧
      nextAnswer (decAt b .await 1 4 0 0#24 [r]) = r := by decide

theorem witness_GuardWaitsAndEntersReading : ∃ s : State, s.dec.st = .synced :=
  ⟨decAt small .synced 2 2 0 0#24 [], by decide⟩

/-- ReadBitAccumulatesAbortsOrCompletes: each clause, at the ends of the bit bands, with 22 and with 23 bits read. -/
theorem witness_ReadBit :
    ∀ r ∈ [none, some 99, some 100, some 300, some 301, some 500, some 501], ∀ n ∈ [22, 23],
      (decAt small .read 2 4 n 0#24 [r]).dec.st = .read ∧ nextAnswer (decAt small .read 2 4 n 0#24 [r]) = r := by decide

/-- ReadBitAccumulatesAbortsOrCompletes: the fields of a completed word. -/
theorem witness_ReadBit_completes :
    ∃ (s : State) (v : Frame24), s.dec.st = .read ∧ s.dec.n + 1 = 24 ∧
      v = ((s.dec.acc <<< 1) ||| (if true then 1#24 else 0#24)) ∧ v = 0xC3#8 ++ 0x5A#8 ++ 0xA5#8 :=
  ⟨reading [some 301], 0xC35AA5#24, by decide⟩

/-- ClassRowsAreReadSteps: the states of the two clauses above meet its hypotheses. -/
theorem witness_ClassRowsAreReadSteps :
    (∀ r ∈ [some 500, some 700, some 499, some 701, none],
      (decAt small .await 1 4 0 0#24 [r]).dec.st = .await ∧ triesGuard (decAt small .await 1 4 0 0#24 [r]) = .lt ∧
      nextAnswer (decAt small .await 1 4 0 0#24 [r]) = r) ∧
    (∀ r ∈ [none, some 99, some 100, some 300, some 301, some 500, some 501],
      (reading [r]).dec.st = .read ∧ nextAnswer (reading [r]) = r) := by decide

/-- ResultRowsAreReportingSteps: a state for each of its six clauses. -/
theorem witness_ResultRows :
    (readBit? 100 (nextAnswer (reading [some 400])) = some true ∧
      shiftIn (reading []).dec.acc true = 0xC3#8 ++ 0x5A#8 ++ 0xA5#8 ∧ 0xA5#8 = 255#8 - 0x5A#8) ∧
    (readBit? 100 (nextAnswer (reading [some 200])) = some false ∧
      shiftIn (reading []).dec.acc false = 0xC3#8 ++ 0x5A#8 ++ 0xA4#8 ∧ 0xA4#8 ≠ 255#8 - 0x5A#8) ∧
    readBit? 100 (nextAnswer (reading [some 501])) = none ∧
    (decAt small .await 1 5 0 0#24 []).cfg.dec.startTries = .reads 5 ∧
    (triesGuard (decAt strict .await 1 5 0 0#24 [none]) = .lt ∧
      nextAnswer (decAt strict .await 1 5 0 0#24 [none]) = none ∧ strict.dec.awaitTimeoutEnds = true) ∧
    (decBusy (State.resetOf small) = false ∧ wellFormedDec small.dec = true) := by decide

/-- TxkeyIsTransmitOfTheRegistry: the first and the last key, and the two keys beside them. -/
theorem witness_TxkeyIsTransmitOfTheRegistry :
    small.enc.registry.key1 = 0x11#8 ∧ small.enc.registry.key5 = 0x5A#8 ∧
    (State.resetOf small).enc.st = .idle ∧ wellFormedEnc small.enc = true ∧ (0 = 0 ∨ 5 < 0) ∧ (6 = 0 ∨ 5 < 6) := by
  decide

/-- TwoBaseUnitsInteroperate: the base units of K11, on both sides of both bounds. -/
theorem witness_TwoBaseUnitsInteroperate :
    (5 * 86 ≤ 6 * 100 ∧ 6 * 100 ≤ 7 * 86) ∧ (5 * 120 ≤ 6 * 100 ∧ 6 * 100 ≤ 7 * 120) ∧ ¬ 6 * 100 ≤ 7 * 85 ∧
    ¬ 5 * 121 ≤ 6 * 100 := by decide

/-- TimeoutsInsideATelegram: the default timeouts, the TO_START of R260, both bounds of R259, and the first and last
pulse of each kind. -/
theorem witness_TimeoutsInsideATelegram :
    wellFormedEnc small.enc = true ∧ 1 < small.enc.r ∧
    (∃ k l : DecConfig, (k.err = small.enc.err ∧ k.guardDelay = 2 * k.err ∧ k.toBit = 10 * k.err ∧
        k.toStart = 14 * k.err) ∧ (l.err = small.enc.err ∧ 18 * l.err ≤ l.toStart)) ∧
    (∀ b ∈ [TimeoutBasis.edge, .whole], bitTimeoutBound small.enc small.dec b < small.dec.toBit) ∧
    (linePulses small.enc 0x5A#8)[bitPulse small.enc 1 23]? = some (400, gapAfterRepetition small.enc 0x5A#8) ∧
    (linePulses small.enc 0x5A#8)[bitPulse small.enc 1 23 + 1]? = none :=
  ⟨by decide, by decide, ⟨small.dec, { small.dec with toStart := 1800 }, by decide⟩, by decide, by decide, by decide⟩

/-- TelegramDuration, TelegramHasItsNumberOfSegments, IdealReadingsOfATelegram: the largest legal TEC. -/
theorem witness_TelegramDuration : wellFormedEnc { small.enc with tec := 199 } = true := by decide

/-- DecodeOfEncodeIsTheInstruction, DecodedInstructionsAreWellFormed: instructions at the ends of their operands. -/
theorem witness_DecodeOfEncode :
    wellFormedEnc small.enc = true ∧
    (∀ i ∈ [Instr.txkey 1, .txkey 5, .awIn 500, .awIn 700, .awOut 499, .awOut 701, .rbAbortShort 0, .rbAbortShort 99,
        .rbZero 100, .rbZero 300, .rbOne 301, .rbOne 500, .rbAbortLong 501, .frameWord .encoder 0xC3#8 0x5A#8 0xA5#8,
        .frameValidTrue 0x12#8 0x00#8 0xFF#8, .frameValidFalse 0xFF#8 0xFF#8 0xFF#8, .symPre0],
      wellFormed small i = true) := by decide

/-- EveryMoveRunsItsSelectedOperation: a state for each operation. -/
theorem witness_EveryMoveRunsItsSelectedOperation :
    (∀ st ∈ [EncSt.pre, .start, .data, .stop], ∀ ph ∈ [Phase.burst, .space],
      (withEvent (.move .encoder) (encAt st ph 0 0 0 0)).events = [.move .encoder]) ∧
    (∀ st ∈ [DecSt.await, .synced, .read],
      (withEvent (.move .decoder) (decAt small st 0 5 0 0#24 [])).events = [.move .decoder] ∧
      small.dec.startTries = .reads 5) ∧
    (∀ q ∈ [Request.transmit 0x5A#8, .txkey 1, .txkey 5, .receive, .reset],
      (withEvent (.move (.host q)) busy).events = [.move (.host q)] ∧ encBusy busy = true ∧ decBusy busy = true) := by
  decide

theorem witness_StepRunsTheDecodedInstruction :
    ∃ (s : State) (i : Instr), decode s.cfg (fetchCode s) = .ok i :=
  ⟨withEvent (.move .encoder) (encAt .start .burst 2 0 0 0), .eStartBurst, by decide⟩

/-- StepRunsTheDecodedInstruction with no event listed: a free move decodes wherever both units are busy, but for TXKEY of
an unknown key. -/
theorem witness_StepRunsTheDecodedInstruction_free (m : Move) (h : ∀ k, m = .host (.txkey k) → keyInRange k = true) :
    { busy with events := [] }.events = [] ∧ ∃ i, decode busy.cfg (eventCode busy (.move m)) = .ok i := by
  refine ⟨rfl, ?_⟩
  cases m with
  | encoder => exact ⟨.eDataSpace, by decide⟩
  | decoder => exact ⟨.dReadBit, by decide⟩
  | host q =>
    cases q with
    | transmit c => exact ⟨.transmit c, rfl⟩
    | txkey k => exact ⟨.txkey k, by simp [eventCode, requestCode, decode, h k rfl]⟩
    | receive => exact ⟨.receive, by decide⟩
    | reset => exact ⟨.reset, rfl⟩

theorem witness_AnIdleUnitTakesNoStep :
    ∃ s u : State, (s.events = [.move .encoder] ∧ s.enc.st = .idle) ∧
      (u.events = [.move .decoder] ∧ u.dec.st = .done) :=
  ⟨withEvent (.move .encoder) (State.resetOf small), withEvent (.move .decoder) (decAt small .done 0 0 0 0#24 []),
    by decide⟩

/-- EveryStepKeepsTheInvariant, AUnitAlwaysHasANextState, TheEncoderAlwaysReachesIdle, AnAttemptAlwaysEnds. -/
theorem witness_Inv : Inv busy ∧ decBusy busy = true ∧ busy.cfg.dec.startTries = .reads 5 := by
  refine ⟨⟨⟨?_, ?_, ?_, ?_⟩, ?_⟩, by decide, by decide⟩
  · exact (by decide : busy.enc.carrier = .on)
  · exact (by decide : busy.enc.pc ≤ 2 ∧ busy.enc.sc ≤ 2 ∧ busy.enc.rc ≤ 2 ∧ busy.enc.bi ≤ 24)
  · exact (by decide : busy.enc.pc = 2 ∧ busy.enc.sc = 2 ∧ busy.enc.rc < 2 ∧ busy.enc.bi < 24)
  · exact fun _ => ⟨by decide, 0x5A#8, by decide⟩
  · exact ⟨by decide, (by decide : compareBudget busy.dec.tries busy.cfg.dec.startTries ≠ .gt), by decide, by decide,
      (by decide : busy.dec.res = .empty ∧ busy.dec.sc = 2 ∧ busy.dec.n < 24), trivial, by decide⟩

/-- EveryStepKeepsTheInvariant: a step from a busy encoder to a busy one. -/
theorem witness_Inv_step : busy.enc.st ≠ .idle ∧ (after (step busy)).map (·.enc.st) = some .data := by decide

/-- AUnitAlwaysHasANextState: a move of each unit. -/
theorem witness_AUnitAlwaysHasANextState :
    busy.events = [.move .encoder] ∧ (withEvent (.move .decoder) busy).events = [.move .decoder] := by decide

/-- NoOperationReadsTheFaultRecord: an operation that is refused. -/
theorem witness_NoOperationReadsTheFaultRecord :
    refusal (exec .eStop { busy with faults := FaultRecord.none }) = some .notSelected := by decide

/-- ConfigurationIsNeverWritten, FaultsAreNeverRemoved, NoOperationReadsTheFaultRecord, UnitsDoNotWriteEachOther and
OrderOfUnitsChangesNoOutcome: an encoder operation and a decoder operation, both possible in one state. -/
theorem witness_twoUnits :
    actsOnDecoder .eDataSpace = false ∧ actsOnEncoder .dReadBit = false ∧
    (after (exec .eDataSpace busy)).isSome = true ∧ (after (exec .dReadBit busy)).isSome = true := by decide

/-- FaultsAreNeverRemoved: an operation that changes the record. -/
theorem witness_FaultsAreNeverRemoved :
    faultRecorded { FaultRecord.none with illFormedConfig := true } .illFormedConfig = true ∧
    (after (exec (.transmit 0x01#8) busy)).map (·.faults) = some ⟨false, true, false⟩ := by decide

/-- NoStatePersistsBetweenCalls, ATelegramIsExactlySegs: two good idle encoders that differ. -/
theorem witness_goodIdleEncoders :
    EncInv (State.resetOf small) ∧ EncInv (encAt .idle .burst 2 2 2 24) ∧
      wellFormedEnc (encAt .idle .burst 2 2 2 24).cfg.enc = true ∧
      decBusy (encAt .idle .burst 2 2 2 24) = false ∧ wellFormedDec small.dec = true :=
  ⟨⟨rfl, (by decide : (0 : Nat) ≤ 2 ∧ 0 ≤ 2 ∧ 0 ≤ 2 ∧ 0 ≤ 24), trivial, fun h => absurd rfl h⟩,
    ⟨rfl, (by decide : (2 : Nat) ≤ 2 ∧ 2 ≤ 2 ∧ 2 ≤ 2 ∧ 24 ≤ 24), trivial, fun h => absurd rfl h⟩,
    by decide, by decide, by decide⟩

/-- AnAttemptReportsDecode: P4's readings, with its budget of 5, and an attempt still reading its bits. -/
theorem witness_AnAttemptReportsDecode :
    decodeAttempt { small.dec with s := 4 } [some 200, some 200, some 200, some 600, none] = .result .noStart 5 ∧
    decodeAttempt { small.dec with s := 4 } [some 600, some 600, some 600, some 600, some 400] = .pending := by
  decide

/-- RoundTrip, TheDecoderReceivesWhatTheEncoderSends, EveryLaterRepetitionIsReceived: both ends of R120's bound. -/
theorem witness_RoundTrip :
    (∀ e ∈ [86, 120], 5 * e ≤ 6 * small.enc.err ∧ 6 * small.enc.err ≤ 7 * e ∧
      wellFormedDec { small.dec with err := e } = true) ∧
    wellFormedEnc small.enc = true ∧ small.dec.s = small.enc.s ∧ small.enc.p + small.enc.s ≤ 5 ∧
    (1 ≤ 1 ∧ 1 < small.enc.r) := by decide

/-- InverseCheck and PreambleTolerance: a budget that is just enough. -/
theorem witness_budget : wellFormedDec small.dec = true ∧ budgetAtLeast small.dec.s small.dec.startTries ∧
    budgetAtLeast (3 + small.dec.s) small.dec.startTries :=
  ⟨by decide, (by decide : 2 ≤ 5), (by decide : 3 + 2 ≤ 5)⟩

/-- TruncationIsIncomplete: no bit and 23 bits, at the ends of the bands. -/
theorem witness_TruncationIsIncomplete :
    [some 500, some 700].length = small.dec.s ∧
    (∀ r ∈ [some 500, some 700], classifyAwait small.dec.err r = .inBand) ∧
    ([] : List Reading).length < 24 ∧ (List.replicate 23 (some 100)).length < 24 ∧
    (∀ r ∈ [some 100, some 300, some 301, some 500], (readBit? small.dec.err r).isSome = true) := by decide

/-- NoStartOutsideTheBand: five readings outside the band, none of them in it by one microsecond. -/
theorem witness_NoStartOutsideTheBand :
    (∀ r ∈ [some 499, some 701, none, some 0, some 200], outsideBand small.dec.err r) ∧
    small.dec.awaitTimeoutEnds = false ∧ small.dec.startTries = .reads 5 ∧ strict.dec.startTries = .unlimited ∧
    (none ∉ [some 499, some 701]) :=
  ⟨by unfold outsideBand; decide, by decide, by decide, by decide, by decide⟩

/-- ACorruptedRepetitionCostsOnlyItself: a lost repetition at both ends outside the band, and a budget that is just
enough. -/
theorem witness_ACorruptedRepetition :
    (∀ r ∈ List.replicate 25 (some 499) ++ [none], outsideBand small.dec.err r) ∧
    wellFormedDec { small.dec with startTries := .reads 28 } = true ∧
    budgetAtLeast ((List.replicate 25 (some 499) ++ [none]).length + small.enc.s) (.reads 28) :=
  ⟨by unfold outsideBand; decide, by decide, (by decide : 25 + 1 + 2 ≤ 28)⟩

/-- StartCountMismatch: a decoder that expects fewer and one that expects more start pulses (D23, D24). -/
theorem witness_StartCountMismatch :
    ∃ k l : DecConfig, (wellFormedDec k = true ∧ k.err = small.enc.err ∧ k.s < small.enc.s ∧
        budgetAtLeast (small.enc.p + k.s) k.startTries) ∧
      (wellFormedDec l = true ∧ l.err = small.enc.err ∧ small.enc.s < l.s) :=
  ⟨{ small.dec with s := 1 }, { small.dec with s := 3 }, ⟨by decide, by decide, by decide, (by decide : 2 + 1 ≤ 5)⟩,
    by decide⟩

/-- NoMismatchYieldsAWrongValidFrame: the matched pair meets its hypotheses (D18 with the small configuration); the
statement fails elsewhere, see its docstring. -/
theorem witness_NoMismatch :
    wellFormedEnc small.enc = true ∧ wellFormedDec small.dec = true ∧
    decodeAttempt small.dec (idealReadings (telegram small.enc 0x5A#8) 0) =
      .result (.frame 0xC3#8 0x5A#8 0xA5#8 true) 28 := by decide

end Witnesses

end Sys2Proof.Tests
end

section
/-! PROOFS. The scope family (00_scope.md): one step runs the instruction its event decodes to (R17), and the script
macros stand for the nominal readings (R20). -/

namespace Sys2Proof.Machine

/-! ### One step -/

/-- Where the fetch finds an instruction, the step runs it on what is left of the events (R17). -/
theorem step_of_fetched {s : State} {i : Instr} (h : fetched s = .ok i) : step s = exec i (dropEvent s) := by
  simp [step, h]

/-- A listed event is the next one. -/
theorem nextEvent_cons {s : State} {ev : Event} {evs : List Event} (h : s.events = ev :: evs) : nextEvent s = ev := by
  simp [nextEvent, h]

/-- A free round has a first move (R241). -/
theorem roundMoves_eq_cons (r : Round) : ∃ m ms, roundMoves r = m :: ms :=
  List.exists_cons_of_ne_nil (by simp [roundMoves])

/-- The events of a free round whose moves are m and then ms. -/
theorem freeEvents_of_roundMoves {n : Nat} {m : Move} {ms : List Move}
    (h : roundMoves (Config.environment n) = m :: ms) : freeEvents n = .move m :: ms.map .move := by
  simp [freeEvents, h]

/-- With no event listed, the first move of the free round is next. -/
theorem nextEvent_nil {s : State} {m : Move} {ms : List Move} (h : s.events = [])
    (hm : roundMoves (Config.environment s.freeRounds) = m :: ms) : nextEvent s = .move m := by
  simp [nextEvent, h, freeEvents_of_roundMoves hm]

/-- With no event listed, the rest of the free round is listed. -/
theorem dropEvent_nil_of_roundMoves {s : State} {m : Move} {ms : List Move} (h : s.events = [])
    (hm : roundMoves (Config.environment s.freeRounds) = m :: ms) :
    dropEvent s = { s with events := ms.map .move, freeRounds := s.freeRounds + 1 } := by
  rw [dropEvent_nil h, freeEvents_of_roundMoves hm, List.tail_cons]

/-- Settles O31, from what the fetch and the step do with a listed event and with a free round. -/
theorem stepRunsTheDecodedInstruction : Obligations.StepRunsTheDecodedInstruction := by
  intro s i hdecode
  refine ⟨step_of_fetched hdecode, ?listed, ?free⟩
  case listed =>
    intro ev evs hevents
    exact ⟨congrArg (eventCode s) (nextEvent_cons hevents), dropEvent_cons hevents⟩
  case free =>
    intro hnone
    obtain ⟨m, ms, hmoves⟩ := roundMoves_eq_cons (Config.environment s.freeRounds)
    exact ⟨m, ms, hmoves, congrArg (eventCode s) (nextEvent_nil hnone hmoves),
      dropEvent_nil_of_roundMoves hnone hmoves⟩

/-! ### The script macros -/

/-- A repeated PULSE line answers its duration each time (R20). -/
theorem filterMap_answer_replicate_pulse (e n : Nat) (d : PulseLength) :
    (List.replicate n (Line.pulse d)).filterMap (Line.answer e) = List.replicate n (some (d.value e)) :=
  List.filterMap_replicate_of_some rfl

/-- `STARTS <n>` stands for n nominal start readings (R20). -/
theorem filterMap_answer_startsMacro (e n : Nat) :
    (startsMacro n).filterMap (Line.answer e) = startReadings e n :=
  filterMap_answer_replicate_pulse e n (.units 6)

/-- `PRE <n>` stands for n nominal preamble readings (R20). -/
theorem filterMap_answer_preMacro (e m : Nat) : (preMacro m).filterMap (Line.answer e) = preReadings e m :=
  filterMap_answer_replicate_pulse e m (.units 2)

/-- The eight nominal readings of a byte, most significant bit first: the byte's part of `frameReadings`
(`frameReadings_packFrame`). -/
def byteReadings (e : Nat) (b : Byte) : List Reading :=
  (List.range 8).map (fun j => bitReading e (b.getLsbD (7 - j)))

/-- The PULSE line of a bit answers the bit's nominal reading (R20). -/
theorem answer_pulse_bit (e : Nat) (b : Bool) :
    Line.answer e (.pulse (.units (if b then 4 else 2))) = some (bitReading e b) := by
  cases b <;> rfl

/-- `BITS <byte>` stands for the nominal readings of the byte (R20). -/
theorem filterMap_answer_bitsMacro (e : Nat) (b : Byte) :
    (bitsMacro b).filterMap (Line.answer e) = byteReadings e b := by
  rw [bitsMacro, List.filterMap_map, byteReadings, ← List.filterMap_eq_map]
  exact List.filterMap_congr fun j _ => answer_pulse_bit e (b.getLsbD (7 - j))

/-- The frame word on the wire: the address, the command and the inverse, each most significant bit first
(R63 to R65). -/
theorem frameBit_packFrame (a c i : Byte) {k : Nat} (h : k < 24) :
    frameBit (packFrame a c i) k =
      if k < 8 then a.getLsbD (7 - k) else if k < 16 then c.getLsbD (15 - k) else i.getLsbD (23 - k) := by
  rw [frameBit_eq h, packFrame_bit]
  by_cases ha : k < 8
  · rw [if_pos ha, if_neg (by omega), if_neg (by omega), show 23 - k - 16 = 7 - k by omega]
  · by_cases hc : k < 16
    · rw [if_neg ha, if_pos hc, if_neg (by omega), if_pos (by omega), show 23 - k - 8 = 15 - k by omega]
    · rw [if_neg ha, if_neg hc, if_pos (by omega)]

/-- Eight transmission positions that carry the bits of a byte, most significant first, give the byte's readings. -/
theorem map_frameBit_eq_byteReadings (e : Nat) {fw : Frame24} {start : Nat} {b : Byte}
    (h : ∀ j < 8, frameBit fw (start + j) = b.getLsbD (7 - j)) :
    ((List.range 8).map (start + ·)).map (fun k => bitReading e (frameBit fw k)) = byteReadings e b := by
  rw [List.map_map, byteReadings]
  exact List.map_congr_left fun j hj => congrArg (bitReading e) (h j (List.mem_range.mp hj))

/-- The 24 transmission positions are three bytes of eight. -/
theorem range_24_bytes :
    List.range 24 = (List.range 8).map (0 + ·) ++ (List.range 8).map (8 + ·) ++ (List.range 8).map (16 + ·) := by
  decide

/-- The nominal readings of a frame are those of its three bytes, in wire order (R63 to R65, R76). -/
theorem frameReadings_packFrame (e : Nat) (a c i : Byte) :
    frameReadings e (packFrame a c i) = byteReadings e a ++ byteReadings e c ++ byteReadings e i := by
  have haddress : ∀ j < 8, frameBit (packFrame a c i) (0 + j) = a.getLsbD (7 - j) := fun j hj => by
    rw [frameBit_packFrame a c i (by omega), if_pos (by omega), Nat.zero_add]
  have hcommand : ∀ j < 8, frameBit (packFrame a c i) (8 + j) = c.getLsbD (7 - j) := fun j hj => by
    rw [frameBit_packFrame a c i (by omega), if_neg (by omega), if_pos (by omega), show 15 - (8 + j) = 7 - j by omega]
  have hinverse : ∀ j < 8, frameBit (packFrame a c i) (16 + j) = i.getLsbD (7 - j) := fun j hj => by
    rw [frameBit_packFrame a c i (by omega), if_neg (by omega), if_neg (by omega), show 23 - (16 + j) = 7 - j by omega]
  rw [frameReadings, range_24_bytes, List.map_append, List.map_append, map_frameBit_eq_byteReadings e haddress,
    map_frameBit_eq_byteReadings e hcommand, map_frameBit_eq_byteReadings e hinverse]

/-- Settles O60: the lines of PRE, STARTS and BITS answer their nominal readings, and a frame's readings are its three bytes'. -/
theorem scriptMacrosGiveNominalReadings : Obligations.ScriptMacrosGiveNominalReadings := by
  intro e m n a c i
  simp only [List.filterMap_append, filterMap_answer_preMacro, filterMap_answer_startsMacro,
    filterMap_answer_bitsMacro, frameReadings_packFrame, List.append_assoc]

end Sys2Proof.Machine
end

section
/-! PROOFS. The state family (10_state.md), the frame: what each operation leaves unchanged, and from it that the
configuration is never written (R31, R32) and no fault name is removed (R50). -/

namespace Sys2Proof.Machine

/-! ### What an operation leaves unchanged -/

/-- t is s after work of the encoder: configuration, decoder registers and fault record are those of s. -/
structure EncoderWork (s t : State) : Prop where
  cfg : t.cfg = s.cfg
  dec : t.dec = s.dec
  faults : t.faults = s.faults

/-- t is s after work of the decoder: configuration, encoder registers and fault record are those of s. -/
structure DecoderWork (s t : State) : Prop where
  cfg : t.cfg = s.cfg
  enc : t.enc = s.enc
  faults : t.faults = s.faults

/-- Decoder work on decoder work is decoder work. -/
theorem DecoderWork.trans {s t u : State} (h₁ : DecoderWork s t) (h₂ : DecoderWork t u) : DecoderWork s u :=
  ⟨h₂.cfg.trans h₁.cfg, h₂.enc.trans h₁.enc, h₂.faults.trans h₁.faults⟩

/-- A read is decoder work, whatever its timeout. -/
theorem decoderWork_measurePulse (n : Nat) (s : State) : DecoderWork s (measurePulse n s) :=
  ⟨measurePulse_cfg n s, measurePulse_enc n s, measurePulse_faults n s⟩

theorem decoderWork_awaitMeasure (s : State) : DecoderWork s (awaitMeasure s) :=
  (decoderWork_measurePulse s.cfg.dec.toStart s).trans ⟨rfl, rfl, rfl⟩

theorem decoderWork_bitMeasure (s : State) : DecoderWork s (bitMeasure s) :=
  decoderWork_measurePulse s.cfg.dec.toBit s

theorem decoderWork_onAwTimeout (s : State) : DecoderWork s (onAwTimeout s) := by
  unfold onAwTimeout
  split <;> exact ⟨rfl, rfl, rfl⟩

theorem decoderWork_onBit (b : Bool) (s : State) : DecoderWork s (onBit b s) := by
  by_cases hlast : s.dec.n + 1 = 24
  · rw [onBit_completes hlast]; exact ⟨rfl, rfl, rfl⟩
  · rw [onBit_collects hlast]; exact ⟨rfl, rfl, rfl⟩

/-- D.AWAIT_READ is a read and then decoder work, whatever the answer (R174). -/
theorem decoderWork_awaitRead (s : State) : DecoderWork s (awaitRead s) := by
  rcases awaitRead_cases s with ⟨-, h⟩ | ⟨-, -, h⟩ | ⟨-, -, h⟩ | ⟨-, h⟩ <;> rw [h] <;>
    exact (decoderWork_awaitMeasure s).trans ⟨rfl, rfl, rfl⟩

/-- D.READ_BIT is a read and then decoder work, whatever the answer (R176, R177). -/
theorem decoderWork_readBitStep (s : State) : DecoderWork s (readBitStep s) := by
  rcases readBitStep_cases s with ⟨-, h⟩ | ⟨b, -, h⟩ <;> rw [h]
  · exact (decoderWork_bitMeasure s).trans ⟨rfl, rfl, rfl⟩
  · exact (decoderWork_bitMeasure s).trans (decoderWork_onBit b _)

/-- The four ways an operation can touch the state: the encoder works, the decoder works, a fault name is recorded and
nothing else changes (R132, R172, R220), or both units are reset (R250). -/
theorem effect_scope {s t : State} (h : Effect s t) :
    EncoderWork s t ∨ DecoderWork s t ∨ (∃ f, t = raiseFault f s) ∨ t = resetRegisters s := by
  cases h with
  | requestTransmit c =>
    rcases requestTransmit_cases c s with ⟨-, h⟩ | ⟨-, -, h⟩ | ⟨-, -, h⟩ <;> rw [h]
    · exact .inr (.inr (.inl ⟨_, rfl⟩))
    · exact .inl ⟨rfl, rfl, rfl⟩
    · exact .inr (.inr (.inl ⟨_, rfl⟩))
  | requestReceive =>
    rcases requestReceive_cases s with ⟨-, h⟩ | ⟨-, -, h⟩ | ⟨-, -, h⟩ <;> rw [h]
    · exact .inr (.inr (.inl ⟨_, rfl⟩))
    · exact .inr (.inl ⟨rfl, rfl, rfl⟩)
    · exact .inr (.inr (.inl ⟨_, rfl⟩))
  | startTelegram | preBurst | preSpace | startBurst | startSpace | dataBurst | dataSpace | stopGap
  | prePulse | startPulse | dataPulse => exact .inl ⟨rfl, rfl, rfl⟩
  | startAttempt | budgetSpent | guardWait => exact .inr (.inl ⟨rfl, rfl, rfl⟩)
  | awaitRead => exact .inr (.inl (decoderWork_awaitRead s))
  | readBitStep => exact .inr (.inl (decoderWork_readBitStep s))
  | reset => exact .inr (.inr (.inr rfl))

/-- No operation writes the configuration (R31, R32). -/
theorem effect_cfg {s t : State} (h : Effect s t) : t.cfg = s.cfg := by
  rcases effect_scope h with he | hd | ⟨f, rfl⟩ | rfl
  · exact he.cfg
  · exact hd.cfg
  · exact raiseFault_cfg f s
  · exact resetRegisters_cfg s

/-- Settles O37, from what an operation can do to the configuration. -/
theorem configurationIsNeverWritten : Obligations.ConfigurationIsNeverWritten :=
  fun _ _ _ h => effect_cfg (exec_effect h)

/-! ### The fault record -/

/-- An operation keeps the fault record or adds one name to it (R50, R220). -/
theorem effect_faults {s t : State} (h : Effect s t) :
    t.faults = s.faults ∨ ∃ f, t.faults = recordFault s.faults f := by
  rcases effect_scope h with he | hd | ⟨f, rfl⟩ | rfl
  · exact .inl he.faults
  · exact .inl hd.faults
  · exact .inr ⟨f, raiseFault_faults f s⟩
  · exact .inl (resetRegisters_faults s)

/-- A name in the fault record stays there (R50). -/
theorem effect_keeps_recorded {s t : State} (h : Effect s t) {f : FaultName} (hf : faultRecorded s.faults f = true) :
    faultRecorded t.faults f = true := by
  rcases effect_faults h with hsame | ⟨x, hadd⟩
  · rw [hsame, hf]
  · rw [hadd, recordFault_recorded, hf, Bool.true_or]

/-- A row that runs an operation under its selector keeps the fault record if the operation does. -/
theorem faults_of_whenSelected {g : Prop} [Decidable g] {s t u : State} (h : whenSelected g u = .next t)
    (hu : u.faults = s.faults) : t.faults = s.faults := by
  obtain ⟨-, rfl⟩ := whenSelected_next.mp h
  exact hu

/-- The rows of a host command: TRANSMIT, TXKEY and RECEIVE. -/
def IsHostCommand (i : Instr) : Prop := (∃ c, i = .transmit c) ∨ (∃ k, i = .txkey k) ∨ i = .receive

/-- Every row but a host command's keeps the fault record (R220, R222). -/
theorem exec_faults_or_hostCommand {i : Instr} {s t : State} (h : exec i s = .next t) :
    t.faults = s.faults ∨ IsHostCommand i := by
  cases i with
  | transmit c => exact .inr (.inl ⟨c, rfl⟩)
  | txkey k => exact .inr (.inr (.inl ⟨k, rfl⟩))
  | receive => exact .inr (.inr (.inr rfl))
  | reset => cases h; exact .inl rfl
  | ePreBurst | ePreSpace | eStartBurst | eStartSpace | eDataBurst | eDataSpace | eStop
  | symZero | symOne | symStart | symPre0 | symStop
  | dNostart | dGuard | empty => exact .inl (faults_of_whenSelected h rfl)
  | dAwaitRead => exact .inl (faults_of_whenSelected h (decoderWork_awaitRead s).faults)
  | awIn | awOut => exact .inl (faults_of_whenSelected h (decoderWork_awaitMeasure s).faults)
  | awTimeout =>
    exact .inl (faults_of_whenSelected h ((decoderWork_awaitMeasure s).trans (decoderWork_onAwTimeout _)).faults)
  | dReadBit | frameValidTrue | frameValidFalse =>
    exact .inl (faults_of_whenSelected h (decoderWork_readBitStep s).faults)
  | rbTimeout | rbAbortShort | rbAbortLong | incomplete =>
    exact .inl (faults_of_whenSelected h (decoderWork_bitMeasure s).faults)
  | rbOne | rbZero =>
    exact .inl (faults_of_whenSelected h ((decoderWork_bitMeasure s).trans (decoderWork_onBit _ _)).faults)
  | frameWord side =>
    cases side with
    | encoder => exact .inl (faults_of_whenSelected h rfl)
    | decoder => exact .inl (faults_of_whenSelected h (decoderWork_readBitStep s).faults)
  | noStart =>
    cases hg : triesGuard s <;> simp only [exec, execNoStart, hg] at h
    case eq => exact .inl (faults_of_whenSelected h rfl)
    case lt => exact .inl (faults_of_whenSelected h (decoderWork_awaitMeasure s).faults)
    case gt => cases h

/-- Settles O38: an operation keeps the record or adds a name, and only a host command's row does not keep it. -/
theorem faultsAreNeverRemoved : Obligations.FaultsAreNeverRemoved := by
  intro i s t h
  exact ⟨fun _ hf => effect_keeps_recorded (exec_effect h) hf,
    fun hchanged => (exec_faults_or_hostCommand h).resolve_left hchanged⟩

end Sys2Proof.Machine
end

section
/-! PROOFS. The state family (10_state.md), the invariant: each operation of the encoder keeps the encoder's half, each
operation of the decoder keeps the decoder's half, and neither half reads what the other unit writes. -/

namespace Sys2Proof.Machine

/-! ### The encoder's half of the invariant -/

/-- The encoder's half reads the configuration and the encoder registers only. -/
theorem encInv_congr {s t : State} (hcfg : t.cfg = s.cfg) (henc : t.enc = s.enc) : EncInv t ↔ EncInv s := by
  rw [EncInv, EncInv, hcfg, henc]

/-- Before a burst, in every state of the sequencer, the carrier is off (R40, R145). -/
theorem carrierOk_burst {e : EncState} (hph : e.ph = .burst) : CarrierOk e ↔ e.carrier = .off := by
  unfold CarrierOk
  rw [hph]
  cases e.st <;> simp

/-- Between a burst and its space, in the states that emit pulses, the carrier is on (R40, R145). -/
theorem carrierOk_space {e : EncState} (hph : e.ph = .space) (hidle : e.st ≠ .idle) (hstop : e.st ≠ .stop) :
    CarrierOk e ↔ e.carrier = .on := by
  unfold CarrierOk
  rw [hph]
  cases hst : e.st <;> simp_all

theorem carrierOk_idle {e : EncState} (hst : e.st = .idle) : CarrierOk e ↔ e.carrier = .off := by
  simp [CarrierOk, hst]

theorem carrierOk_stop {e : EncState} (hst : e.st = .stop) : CarrierOk e ↔ e.ph = .burst ∧ e.carrier = .off := by
  simp [CarrierOk, hst]

theorem countersOk_pre {k : EncConfig} {e : EncState} (hst : e.st = .pre) :
    CountersOk k e ↔ e.pc < k.p ∧ e.sc = 0 ∧ e.rc = 0 ∧ e.bi = 0 := by
  simp [CountersOk, hst]

theorem countersOk_start {k : EncConfig} {e : EncState} (hst : e.st = .start) :
    CountersOk k e ↔ e.pc = k.p ∧ e.sc < k.s ∧ e.rc < k.r := by
  simp [CountersOk, hst]

theorem countersOk_data {k : EncConfig} {e : EncState} (hst : e.st = .data) :
    CountersOk k e ↔ e.pc = k.p ∧ e.sc = k.s ∧ e.rc < k.r ∧ e.bi < 24 := by
  simp [CountersOk, hst]

theorem countersOk_stop {k : EncConfig} {e : EncState} (hst : e.st = .stop) :
    CountersOk k e ↔ e.pc = k.p ∧ e.sc = k.s ∧ e.rc < k.r ∧ e.bi = 24 := by
  simp [CountersOk, hst]

theorem countersOk_idle {k : EncConfig} {e : EncState} (hst : e.st = .idle) : CountersOk k e := by
  simp [CountersOk, hst]

/-- A step of a busy encoder that keeps configuration and frame word owes only what it says of the carrier and the
counters. -/
theorem encInv_of_segment {s t : State} (h : EncInv s) (hbusy : s.enc.st ≠ .idle) (hcfg : t.cfg = s.cfg)
    (hfw : t.enc.fw = s.enc.fw) (hcarrier : CarrierOk t.enc) (hbounds : EncBounds s.cfg.enc t.enc)
    (hcounters : CountersOk s.cfg.enc t.enc) : EncInv t := by
  obtain ⟨-, -, -, hrun⟩ := h
  obtain ⟨hwf, c, hc⟩ := hrun hbusy
  rw [EncInv, hcfg]
  exact ⟨hcarrier, hbounds, hcounters, fun _ => ⟨hwf, c, hfw.trans hc⟩⟩

/-- An accepted command forms its frame word and starts every counter at 0 (R131). -/
theorem encInv_startTelegram {s : State} (c : Byte) (h : EncInv s) (hst : s.enc.st = .idle)
    (hwf : wellFormedEnc s.cfg.enc = true) : EncInv (startTelegram c s) := by
  obtain ⟨hcarrier, -, -, -⟩ := h
  obtain ⟨-, hs, hr, -⟩ := wellFormedEnc_iff.mp hwf
  refine ⟨(carrierOk_burst rfl).mpr ((carrierOk_idle hst).mp hcarrier),
    ⟨Nat.zero_le _, Nat.zero_le _, Nat.zero_le _, Nat.zero_le _⟩, ?counters, fun _ => ⟨hwf, c, rfl⟩⟩
  case counters =>
    rw [startTelegram_enc, startTelegram_cfg]
    by_cases hp : 0 < s.cfg.enc.p
    · exact (countersOk_pre (if_pos hp)).mpr ⟨hp, rfl, rfl, rfl⟩
    · exact (countersOk_start (if_neg hp)).mpr ⟨(Nat.eq_zero_of_not_pos hp).symm, hs, hr⟩

/-- A burst turns the carrier on and leaves the counters (R133, R135, R137). -/
theorem encInv_burst {s t : State} (h : EncInv s) (hidle : s.enc.st ≠ .idle) (hstop : s.enc.st ≠ .stop)
    (hcfg : t.cfg = s.cfg) (henc : t.enc = { s.enc with carrier := .on, ph := .space }) : EncInv t := by
  obtain ⟨-, hbounds, hcounters, -⟩ := id h
  apply encInv_of_segment h hidle hcfg <;> rw [henc]
  case hcarrier => exact (carrierOk_space (e := { s.enc with carrier := .on, ph := .space }) rfl hidle hstop).mpr rfl
  case hbounds => exact hbounds
  case hcounters => exact hcounters

theorem encInv_preBurst {s : State} (h : EncInv s) (hst : s.enc.st = .pre) : EncInv (preBurst s) :=
  encInv_burst h (by simp [hst]) (by simp [hst]) rfl rfl

theorem encInv_startBurst {s : State} (h : EncInv s) (hst : s.enc.st = .start) : EncInv (startBurst s) :=
  encInv_burst h (by simp [hst]) (by simp [hst]) rfl rfl

theorem encInv_dataBurst {s : State} (h : EncInv s) (hst : s.enc.st = .data) : EncInv (dataBurst s) :=
  encInv_burst h (by simp [hst]) (by simp [hst]) rfl rfl

/-- The last preamble space goes on to the start pulses, of which there is at least one (R113, R134). -/
theorem encInv_preSpace {s : State} (h : EncInv s) (hst : s.enc.st = .pre) : EncInv (preSpace s) := by
  obtain ⟨-, ⟨-, hsc, hrc, hbi⟩, hcounters, hrun⟩ := id h
  obtain ⟨hpc, hsc₀, hrc₀, hbi₀⟩ := (countersOk_pre hst).mp hcounters
  obtain ⟨-, hs, hr, -⟩ := wellFormedEnc_iff.mp (hrun (by simp [hst])).1
  refine encInv_of_segment h (by simp [hst]) rfl rfl ((carrierOk_burst rfl).mpr rfl) ⟨hpc, hsc, hrc, hbi⟩ ?counters
  rw [preSpace_eq]
  by_cases hlast : s.enc.pc + 1 = s.cfg.enc.p
  · exact (countersOk_start (if_pos hlast)).mpr ⟨hlast, hsc₀.trans_lt hs, hrc₀.trans_lt hr⟩
  · exact (countersOk_pre ((if_neg hlast).trans hst)).mpr ⟨lt_of_le_of_ne hpc hlast, hsc₀, hrc₀, hbi₀⟩

/-- The last start space goes on to frame bit 0 (R136). -/
theorem encInv_startSpace {s : State} (h : EncInv s) (hst : s.enc.st = .start) : EncInv (startSpace s) := by
  obtain ⟨-, ⟨hpc, -, hrc, hbi⟩, hcounters, -⟩ := id h
  obtain ⟨hpcEq, hsc, hrcLt⟩ := (countersOk_start hst).mp hcounters
  refine encInv_of_segment h (by simp [hst]) rfl rfl ((carrierOk_burst rfl).mpr rfl) ⟨hpc, hsc, hrc, ?bit⟩ ?counters
  case bit =>
    simp only [startSpace_eq]
    split <;> omega
  case counters =>
    rw [startSpace_eq]
    by_cases hlast : s.enc.sc + 1 = s.cfg.enc.s
    · exact (countersOk_data (if_pos hlast)).mpr ⟨hpcEq, hlast, hrcLt, by simp [hlast]⟩
    · exact (countersOk_start ((if_neg hlast).trans hst)).mpr ⟨hpcEq, lt_of_le_of_ne hsc hlast, hrcLt⟩

/-- The space of frame bit 23 goes on to the stop gap (R138). -/
theorem encInv_dataSpace {s : State} (h : EncInv s) (hst : s.enc.st = .data) : EncInv (dataSpace s) := by
  obtain ⟨-, ⟨hpc, hsc, hrc, -⟩, hcounters, -⟩ := id h
  obtain ⟨hpcEq, hscEq, hrcLt, hbi⟩ := (countersOk_data hst).mp hcounters
  refine encInv_of_segment h (by simp [hst]) rfl rfl ((carrierOk_burst rfl).mpr rfl) ⟨hpc, hsc, hrc, hbi⟩ ?counters
  rw [dataSpace_eq]
  by_cases hlast : s.enc.bi + 1 = 24
  · exact (countersOk_stop (if_pos hlast)).mpr ⟨hpcEq, hscEq, hrcLt, hlast⟩
  · exact (countersOk_data ((if_neg hlast).trans hst)).mpr ⟨hpcEq, hscEq, hrcLt, lt_of_le_of_ne hbi hlast⟩

/-- The stop gap of the last repetition ends the telegram, and any other goes on to the next repetition (R139). -/
theorem encInv_stopGap {s : State} (h : EncInv s) (hst : s.enc.st = .stop) : EncInv (stopGap s) := by
  obtain ⟨hcarrier, ⟨hpc, hsc, -, hbi⟩, hcounters, hrun⟩ := id h
  obtain ⟨hpcEq, -, hrc, -⟩ := (countersOk_stop hst).mp hcounters
  obtain ⟨hph, -⟩ := (carrierOk_stop hst).mp hcarrier
  obtain ⟨-, hs, -, -⟩ := wellFormedEnc_iff.mp (hrun (by simp [hst])).1
  refine encInv_of_segment h (by simp [hst]) rfl rfl ((carrierOk_burst (e := (stopGap s).enc) hph).mpr rfl)
    ⟨hpc, ?start, hrc, hbi⟩ ?counters
  case start =>
    simp only [stopGap_eq]
    split <;> omega
  case counters =>
    rw [stopGap_eq]
    by_cases hlast : s.enc.rc + 1 = s.cfg.enc.r
    · exact countersOk_idle (if_pos hlast)
    · exact (countersOk_start (if_neg hlast)).mpr ⟨hpcEq, (if_neg hlast).trans_lt hs, lt_of_le_of_ne hrc hlast⟩

/-- Every operation keeps the encoder's half of the invariant. -/
theorem effect_encInv {s t : State} (heff : Effect s t) (h : EncInv s) : EncInv t := by
  cases heff with
  | requestTransmit c =>
    rcases requestTransmit_cases c s with ⟨-, ht⟩ | ⟨hst, hwf, ht⟩ | ⟨-, -, ht⟩ <;> rw [ht]
    · exact h
    · exact encInv_startTelegram c h hst hwf
    · exact h
  | startTelegram c hst hwf => exact encInv_startTelegram c h hst hwf
  | preBurst hst => exact encInv_preBurst h hst
  | preSpace hst => exact encInv_preSpace h hst
  | startBurst hst => exact encInv_startBurst h hst
  | startSpace hst => exact encInv_startSpace h hst
  | dataBurst hst => exact encInv_dataBurst h hst
  | dataSpace hst => exact encInv_dataSpace h hst
  | stopGap hst => exact encInv_stopGap h hst
  | prePulse hst => exact encInv_preSpace (encInv_preBurst h hst) hst
  | startPulse hst => exact encInv_startSpace (encInv_startBurst h hst) hst
  | dataPulse hst => exact encInv_dataSpace (encInv_dataBurst h hst) hst
  | requestReceive =>
    rcases requestReceive_cases s with ⟨-, ht⟩ | ⟨-, -, ht⟩ | ⟨-, -, ht⟩ <;> rw [ht] <;> exact h
  | startAttempt | budgetSpent | guardWait => exact h
  | awaitRead => exact (encInv_congr (decoderWork_awaitRead s).cfg (decoderWork_awaitRead s).enc).mpr h
  | readBitStep => exact (encInv_congr (decoderWork_readBitStep s).cfg (decoderWork_readBitStep s).enc).mpr h
  | reset =>
    exact ⟨(carrierOk_idle rfl).mpr rfl, ⟨Nat.zero_le _, Nat.zero_le _, Nat.zero_le _, Nat.zero_le _⟩,
      countersOk_idle rfl, fun hbusy => absurd rfl hbusy⟩

/-- The frame word of a busy encoder is written by no operation that leaves it busy (R39). -/
theorem effect_frameWord {s t : State} (heff : Effect s t) (hs : s.enc.st ≠ .idle) (ht : t.enc.st ≠ .idle) :
    t.enc.fw = s.enc.fw := by
  cases heff with
  | requestTransmit c =>
    rcases requestTransmit_cases c s with ⟨-, h⟩ | ⟨hidle, -⟩ | ⟨hidle, -⟩
    · rw [h, raiseFault_enc]
    · exact absurd hidle hs
    · exact absurd hidle hs
  | startTelegram c hidle => exact absurd hidle hs
  | reset => exact absurd rfl ht
  | preBurst | preSpace | startBurst | startSpace | dataBurst | dataSpace | stopGap
  | prePulse | startPulse | dataPulse => rfl
  | requestReceive =>
    rcases requestReceive_cases s with ⟨-, h⟩ | ⟨-, -, h⟩ | ⟨-, -, h⟩ <;> rw [h] <;> rfl
  | startAttempt | budgetSpent | guardWait => rfl
  | awaitRead => rw [(decoderWork_awaitRead s).enc]
  | readBitStep => rw [(decoderWork_readBitStep s).enc]

/-! ### The decoder's half of the invariant -/

/-- The decoder's half reads the configuration and the decoder registers only. -/
theorem decInv_congr {s t : State} (hcfg : t.cfg = s.cfg) (hdec : t.dec = s.dec) : DecInv t ↔ DecInv s := by
  rw [DecInv, DecInv, TriesOk, TriesOk, decBusy, decBusy, hcfg, hdec]

/-- What the decoder's half says in every decoder state: the counters are within their bounds, and the accumulator holds
no bit above those collected (R43 to R46, R184). -/
def DecBounds (s : State) : Prop :=
  s.dec.sc ≤ s.cfg.dec.s ∧ TriesOk s ∧ s.dec.n ≤ 24 ∧ s.dec.acc.toNat < 2 ^ s.dec.n

theorem decInv_bounds {s : State} (h : DecInv s) : DecBounds s := by
  obtain ⟨hsc, htries, hn, hacc, -⟩ := h
  exact ⟨hsc, htries, hn, hacc⟩

theorem decInv_state {s : State} (h : DecInv s) : DecStateOk s.cfg.dec s.dec := by
  obtain ⟨-, -, -, -, hstate, -⟩ := h
  exact hstate

theorem decStateOk_await {k : DecConfig} {d : DecState} (hst : d.st = .await) :
    DecStateOk k d ↔ d.res = .empty ∧ d.sc < k.s ∧ d.n = 0 ∧ d.acc = 0#24 := by
  simp [DecStateOk, hst]

theorem decStateOk_synced {k : DecConfig} {d : DecState} (hst : d.st = .synced) :
    DecStateOk k d ↔ d.res = .empty ∧ d.sc = k.s ∧ d.n = 0 ∧ d.acc = 0#24 := by
  simp [DecStateOk, hst]

theorem decStateOk_read {k : DecConfig} {d : DecState} (hst : d.st = .read) :
    DecStateOk k d ↔ d.res = .empty ∧ d.sc = k.s ∧ d.n < 24 := by
  simp [DecStateOk, hst]

theorem decStateOk_done {k : DecConfig} {d : DecState} (hst : d.st = .done) : DecStateOk k d ↔ d.res ≠ .empty := by
  simp [DecStateOk, hst]

theorem decBusy_of_st {s : State} {x : DecSt} (hst : s.dec.st = x) : decBusy s = decBusySt x :=
  congrArg decBusySt hst

/-- The read counter has not passed its budget where the guard of D.AWAIT_READ held one read before (R44, R96). -/
theorem compareBudget_succ_ne_gt {n : Nat} {b : Budget} (h : compareBudget n b = .lt) :
    compareBudget (n + 1) b ≠ .gt := by
  cases b with
  | unlimited => simp [compareBudget]
  | reads m =>
    have hlt : n < m := compareBudget_lt.mp h m rfl
    simp only [compareBudget, ne_eq]
    split
    · simp
    · rw [if_pos (by omega)]; simp

theorem compareBudget_zero_ne_gt (b : Budget) : compareBudget 0 b ≠ .gt := by
  cases b with
  | unlimited => simp [compareBudget]
  | reads m => cases m <;> simp [compareBudget]

/-- An accumulator of n bits holds n + 1 after one more (R88, R184). -/
theorem shiftIn_toNat_lt {acc : Frame24} {n : Nat} (b : Bool) (h : acc.toNat < 2 ^ n) :
    (shiftIn acc b).toNat < 2 ^ (n + 1) := by
  have hshift : (acc <<< 1).toNat < 2 ^ (n + 1) := by
    rw [BitVec.toNat_shiftLeft, Nat.shiftLeft_eq, pow_succ]
    exact lt_of_le_of_lt (Nat.mod_le _ _) (by omega)
  have hbit : ((BitVec.ofBool b).setWidth 24).toNat < 2 ^ (n + 1) := by
    have : ((BitVec.ofBool b).setWidth 24).toNat < 2 := by cases b <;> decide
    have : 0 < 2 ^ n := Nat.two_pow_pos n
    rw [pow_succ]; omega
  rw [shiftIn, BitVec.toNat_or]
  exact Nat.or_lt_two_pow hshift hbit

/-- The end of an attempt owes only the bounds and what it says of the result (R186). -/
theorem decInv_finish {s : State} {x : Result} (h : DecBounds s) (hx : x ≠ .empty) (hvalid : ValidFlagOk x) :
    DecInv (finish x s) := by
  obtain ⟨hsc, htries, hn, hacc⟩ := h
  exact ⟨hsc, htries, hn, hacc, (decStateOk_done rfl).mpr hx, hvalid, fun hbusy => nomatch hbusy⟩

/-- A step of an attempt that keeps configuration and result owes only the bounds and what it says of its state. -/
theorem decInv_of_attempt {s t : State} (h : DecInv s) (hbusy : decBusy s = true) (hcfg : t.cfg = s.cfg)
    (hres : t.dec.res = s.dec.res) (hbounds : DecBounds t) (hstate : DecStateOk s.cfg.dec t.dec) : DecInv t := by
  obtain ⟨-, -, -, -, -, hvalid, hrun⟩ := h
  obtain ⟨hsc, htries, hn, hacc⟩ := hbounds
  exact ⟨hsc, htries, hn, hacc, hcfg ▸ hstate, hres ▸ hvalid, fun _ => hcfg ▸ hrun hbusy⟩

/-- An accepted request starts every counter at 0, and there is at least one start pulse to wait for (R113, R171). -/
theorem decInv_startAttempt {s : State} (hwf : wellFormedDec s.cfg.dec = true) : DecInv (startAttempt s) := by
  obtain ⟨-, hs, -, -⟩ := wellFormedDec_iff.mp hwf
  exact ⟨Nat.zero_le _, compareBudget_zero_ne_gt _, Nat.zero_le _, Nat.one_pos,
    (decStateOk_await rfl).mpr ⟨rfl, hs, rfl, rfl⟩, trivial, fun _ => hwf⟩

@[simp] theorem awaitMeasure_cfg (s : State) : (awaitMeasure s).cfg = s.cfg := (decoderWork_awaitMeasure s).cfg

@[simp] theorem awaitMeasure_dec (s : State) :
    (awaitMeasure s).dec = { s.dec with tries := s.dec.tries + 1 } := by
  simp [awaitMeasure]

/-- A read of D.AWAIT_READ is counted, and its guard left room for it (R96, R174). -/
theorem decInv_awaitMeasure {s : State} (h : DecInv s) (hst : s.dec.st = .await) (hguard : triesGuard s = .lt) :
    DecInv (awaitMeasure s) := by
  obtain ⟨hsc, -, hn, hacc⟩ := decInv_bounds h
  apply decInv_of_attempt h (decBusy_of_st hst)
  case hcfg => exact awaitMeasure_cfg s
  case hres => rw [awaitMeasure_dec]
  case hbounds =>
    rw [DecBounds, TriesOk, awaitMeasure_dec, awaitMeasure_cfg]
    exact ⟨hsc, compareBudget_succ_ne_gt hguard, hn, hacc⟩
  case hstate =>
    rw [awaitMeasure_dec]
    exact (decStateOk_await hst).mpr ((decStateOk_await hst).mp (decInv_state h))

/-- The last start pulse synchronises (R174). -/
theorem decInv_onAwIn {s : State} (h : DecInv s) (hst : s.dec.st = .await) : DecInv (onAwIn s) := by
  obtain ⟨-, htries, hn, hacc⟩ := decInv_bounds h
  obtain ⟨hres, hsc, hn₀, hacc₀⟩ := (decStateOk_await hst).mp (decInv_state h)
  refine decInv_of_attempt h (decBusy_of_st hst) rfl rfl ⟨hsc, htries, hn, hacc⟩ ?_
  by_cases hlast : s.dec.sc + 1 = s.cfg.dec.s
  · exact (decStateOk_synced (if_pos hlast)).mpr ⟨hres, hlast, hn₀, hacc₀⟩
  · exact (decStateOk_await ((if_neg hlast).trans hst)).mpr ⟨hres, lt_of_le_of_ne hsc hlast, hn₀, hacc₀⟩

/-- A reading outside the start band starts the count again (R174). -/
theorem decInv_onAwOut {s : State} (h : DecInv s) (hst : s.dec.st = .await) : DecInv (onAwOut s) := by
  obtain ⟨-, htries, hn, hacc⟩ := decInv_bounds h
  obtain ⟨hres, hsc, hn₀, hacc₀⟩ := (decStateOk_await hst).mp (decInv_state h)
  exact decInv_of_attempt h (decBusy_of_st hst) rfl rfl ⟨Nat.zero_le _, htries, hn, hacc⟩
    ((decStateOk_await (d := (onAwOut s).dec) hst).mpr ⟨hres, Nat.zero_lt_of_lt hsc, hn₀, hacc₀⟩)

theorem decInv_awaitRead {s : State} (h : DecInv s) (hst : s.dec.st = .await) (hguard : triesGuard s = .lt) :
    DecInv (awaitRead s) := by
  have hread := decInv_awaitMeasure h hst hguard
  have hawait : (awaitMeasure s).dec.st = .await := by rw [awaitMeasure_dec]; exact hst
  rcases awaitRead_cases s with ⟨-, ht⟩ | ⟨-, -, ht⟩ | ⟨-, -, ht⟩ | ⟨-, ht⟩ <;> rw [ht]
  · exact decInv_onAwIn hread hawait
  · exact decInv_finish (decInv_bounds hread) (by simp) trivial
  · exact decInv_onAwOut hread hawait
  · exact decInv_onAwOut hread hawait

/-- The guard clears the accumulator and goes on to the frame bits (R175). -/
theorem decInv_guardWait {s : State} (h : DecInv s) (hst : s.dec.st = .synced) : DecInv (guardWait s) := by
  obtain ⟨hsc, htries, -, -⟩ := decInv_bounds h
  obtain ⟨hres, hscEq, -, -⟩ := (decStateOk_synced hst).mp (decInv_state h)
  exact decInv_of_attempt h (decBusy_of_st hst) rfl rfl ⟨hsc, htries, Nat.zero_le _, Nat.one_pos⟩
    ((decStateOk_read rfl).mpr ⟨hres, hscEq, Nat.zero_lt_succ _⟩)

/-- An abort discards the bits collected and reports Incomplete (R177). -/
theorem decInv_abort {s : State} (h : DecInv s) : DecInv (abort s) := by
  obtain ⟨hsc, htries, -, -⟩ := decInv_bounds h
  exact decInv_finish ⟨hsc, htries, Nat.zero_le _, Nat.one_pos⟩ (by simp) trivial

/-- A bit is collected, and the 24th completes a frame whose valid flag is the one of its fields (R176, R180, R181). -/
theorem decInv_onBit {s : State} (b : Bool) (h : DecInv s) (hst : s.dec.st = .read) : DecInv (onBit b s) := by
  obtain ⟨hsc, htries, -, hacc⟩ := decInv_bounds h
  obtain ⟨hres, hscEq, hn⟩ := (decStateOk_read hst).mp (decInv_state h)
  have hbounds : DecBounds { s with dec := { s.dec with acc := shiftIn s.dec.acc b, n := s.dec.n + 1 } } :=
    ⟨hsc, htries, hn, shiftIn_toNat_lt b hacc⟩
  by_cases hlast : s.dec.n + 1 = 24
  · rw [onBit_completes hlast]
    exact decInv_finish hbounds (by simp) rfl
  · rw [onBit_collects hlast]
    refine decInv_of_attempt h (decBusy_of_st hst) rfl rfl hbounds ((decStateOk_read ?state).mpr ?_)
    case state => exact hst
    exact ⟨hres, hscEq, lt_of_le_of_ne hn hlast⟩

theorem decInv_readBitStep {s : State} (h : DecInv s) (hst : s.dec.st = .read) : DecInv (readBitStep s) := by
  have hdec : (bitMeasure s).dec = s.dec := measurePulse_dec _ s
  have hread : DecInv (bitMeasure s) := (decInv_congr (decoderWork_bitMeasure s).cfg hdec).mpr h
  rcases readBitStep_cases s with ⟨-, ht⟩ | ⟨b, -, ht⟩ <;> rw [ht]
  · exact decInv_abort hread
  · exact decInv_onBit b hread (by rw [hdec]; exact hst)

/-- Every operation keeps the decoder's half of the invariant. -/
theorem effect_decInv {s t : State} (heff : Effect s t) (h : DecInv s) : DecInv t := by
  cases heff with
  | requestReceive =>
    rcases requestReceive_cases s with ⟨-, ht⟩ | ⟨-, hwf, ht⟩ | ⟨-, -, ht⟩ <;> rw [ht]
    · exact h
    · exact decInv_startAttempt hwf
    · exact h
  | startAttempt _ hwf => exact decInv_startAttempt hwf
  | budgetSpent => exact decInv_finish (decInv_bounds h) (by simp) trivial
  | awaitRead hst hguard => exact decInv_awaitRead h hst hguard
  | guardWait hst => exact decInv_guardWait h hst
  | readBitStep hst => exact decInv_readBitStep h hst
  | requestTransmit c =>
    rcases requestTransmit_cases c s with ⟨-, ht⟩ | ⟨-, -, ht⟩ | ⟨-, -, ht⟩ <;> rw [ht] <;> exact h
  | startTelegram | preBurst | preSpace | startBurst | startSpace | dataBurst | dataSpace | stopGap
  | prePulse | startPulse | dataPulse => exact h
  | reset =>
    exact ⟨Nat.zero_le _, compareBudget_zero_ne_gt _, Nat.zero_le _, Nat.one_pos, rfl, trivial,
      fun hbusy => nomatch hbusy⟩

/-! ### The invariant of the block -/

/-- Every operation keeps the invariant. -/
theorem effect_inv {s t : State} (heff : Effect s t) : Inv s → Inv t :=
  And.imp (effect_encInv heff) (effect_decInv heff)

/-- The invariant does not read the events still to come. -/
theorem inv_dropEvent {s : State} : Inv (dropEvent s) ↔ Inv s :=
  and_congr (encInv_congr (dropEvent_cfg s) (dropEvent_enc s)) (decInv_congr (dropEvent_cfg s) (dropEvent_dec s))

/-- Settles O34: a step is an operation on what is left of the events, or leaves the block as it is. -/
theorem everyStepKeepsTheInvariant : Obligations.EveryStepKeepsTheInvariant := by
  intro s t h
  rcases step_next_cases h with ⟨i, -, hexec⟩ | ⟨-, rfl⟩
  case inl =>
    have heff : Effect (dropEvent s) t := exec_effect hexec
    refine ⟨fun hinv => effect_inv heff (inv_dropEvent.mpr hinv), fun hs ht => ?_⟩
    rw [← dropEvent_enc s] at hs ⊢
    exact effect_frameWord heff hs ht
  case inr => exact ⟨inv_dropEvent.mpr, fun _ _ => by rw [dropEvent_enc]⟩

end Sys2Proof.Machine
end

section
/-! PROOFS. The memory family (20_memory.md), the wire: the order of the frame bits (R63 to R65) and the readings of a
telegram over the ideal channel (R75, R76). -/

namespace Sys2Proof.Machine

/-! ### The order of the frame bits -/

/-- Settles O24: the packed word's bits, read from the most significant one down. -/
theorem wireOrderOfTheFrame : Obligations.WireOrderOfTheFrame :=
  fun a c i _ hk => frameBit_packFrame a c i hk

/-! ### The ideal channel on a segment list -/

/-- An OFF segment in front leaves an OFF interval in front, merged with what follows or not (R75). -/
theorem mergeRuns_off_cons (d : Nat) (xs : List Segment) :
    ∃ d' ys, mergeRuns (⟨.off, d⟩ :: xs) = ⟨.off, d'⟩ :: ys := by
  rw [mergeRuns]
  split
  · exact ⟨d, [], rfl⟩
  · split
    · exact ⟨_, _, rfl⟩
    · exact ⟨d, _, rfl⟩

/-- An ON segment before an OFF segment is an interval of its own (R75). -/
theorem mergeRuns_on_off_cons (b d : Nat) (xs : List Segment) :
    mergeRuns (⟨.on, b⟩ :: ⟨.off, d⟩ :: xs) = ⟨.on, b⟩ :: mergeRuns (⟨.off, d⟩ :: xs) := by
  obtain ⟨d', ys, h⟩ := mergeRuns_off_cons d xs
  rw [mergeRuns, h]
  exact if_neg Level.noConfusion

/-- An OFF segment in front adds no reading. -/
theorem onIntervals_off_cons (d : Nat) (xs : List Segment) : onIntervals (⟨.off, d⟩ :: xs) = onIntervals xs := by
  rw [onIntervals, onIntervals, mergeRuns]
  cases mergeRuns xs with
  | nil => rfl
  | cons y ys =>
    obtain ⟨level, dur⟩ := y
    cases level <;> rfl

/-- A burst before a space is one reading. -/
theorem onIntervals_on_off_cons (b d : Nat) (xs : List Segment) :
    onIntervals (⟨.on, b⟩ :: ⟨.off, d⟩ :: xs) = b :: onIntervals xs := by
  rw [← onIntervals_off_cons d xs, onIntervals, mergeRuns_on_off_cons]
  rfl

/-! ### What a part of a telegram is read as -/

/-- Over the ideal channel the segments l are read as rs, whatever segments come after them. -/
def ReadAs (l : List Segment) (rs : List Reading) : Prop :=
  ∀ (rest : List Segment) (n : Nat), idealReadings (l ++ rest) n = rs ++ idealReadings rest n

theorem readAs_nil : ReadAs [] [] := fun _ _ => rfl

/-- A part read on its own, with nothing after it. -/
theorem ReadAs.idealReadings_eq {l : List Segment} {rs : List Reading} (h : ReadAs l rs) (n : Nat) :
    idealReadings l n = rs ++ List.replicate n none := by
  simpa [idealReadings, onIntervals, mergeRuns] using h [] n

theorem ReadAs.append {l m : List Segment} {rs qs : List Reading} (hl : ReadAs l rs) (hm : ReadAs m qs) :
    ReadAs (l ++ m) (rs ++ qs) := fun rest n => by
  rw [List.append_assoc, hl, hm, List.append_assoc]

theorem ReadAs.repeated {l : List Segment} {rs : List Reading} (h : ReadAs l rs) (n : Nat) :
    ReadAs (repeated n l) (repeated n rs) := by
  induction n with
  | zero => exact readAs_nil
  | succ n ih => exact h.append ih

/-- One part after the other, each of one reading. -/
theorem readAs_flatMap {α : Type} {f : α → List Segment} {g : α → Reading} (h : ∀ x, ReadAs (f x) [g x])
    (xs : List α) : ReadAs (xs.flatMap f) (xs.map g) := by
  induction xs with
  | nil => exact readAs_nil
  | cons x xs ih => exact (h x).append ih

/-- A pulse is read as its burst, however long its space is. -/
theorem readAs_pulse (b d : Nat) : ReadAs (pulse b d) [some b] := fun rest n => by
  simp [pulse, idealReadings, onIntervals_on_off_cons]

/-- A gap at the end of a part adds no reading. -/
theorem ReadAs.append_gap {l : List Segment} {rs : List Reading} (h : ReadAs l rs) (d : Nat) :
    ReadAs (l ++ [⟨.off, d⟩]) rs := fun rest n => by
  rw [List.append_assoc, h, List.singleton_append, idealReadings, onIntervals_off_cons, idealReadings]

theorem repeated_singleton {α : Type} (n : Nat) (x : α) : repeated n [x] = List.replicate n x := by
  induction n with
  | zero => rfl
  | succ n ih => rw [repeated, ih, List.replicate_succ, List.singleton_append]

/-! ### The parts of a telegram -/

theorem readAs_preSegs (k : EncConfig) : ReadAs (preSegs k) (preReadings k.err k.p) := by
  rw [preReadings, ← repeated_singleton]
  exact (readAs_pulse _ _).repeated k.p

theorem readAs_startSegs (k : EncConfig) : ReadAs (startSegs k) (startReadings k.err k.s) := by
  rw [startReadings, ← repeated_singleton]
  exact (readAs_pulse _ _).repeated k.s

/-- The symbol of a frame bit is read as the bit's nominal reading (R87). -/
theorem readAs_bitSym (k : EncConfig) (b : Bool) : ReadAs (symSegs k (bitSym b)) [bitReading k.err b] := by
  cases b with
  | false => exact readAs_pulse (bit0Width k.err) (bit0Width k.err)
  | true => exact readAs_pulse (bit1Width k.err) (bit1Width k.err)

theorem readAs_bitSegs (k : EncConfig) (fw : Frame24) : ReadAs (bitSegs k fw) (frameReadings k.err fw) :=
  readAs_flatMap (fun j => readAs_bitSym k (frameBit fw j)) (List.range 24)

/-- A repetition's stop gap is not read (R85). -/
theorem readAs_repSegs (k : EncConfig) (c : Byte) :
    ReadAs (repSegs k c) (startReadings k.err k.s ++ frameReadings k.err (frameWordOf k.addr c)) :=
  ((readAs_startSegs k).append (readAs_bitSegs k (frameWordOf k.addr c))).append_gap (minStopGap k.err)

theorem readAs_telegram (k : EncConfig) (c : Byte) :
    ReadAs (telegram k c) (preReadings k.err k.p ++
      repeated k.r (startReadings k.err k.s ++ frameReadings k.err (frameWordOf k.addr c))) :=
  (readAs_preSegs k).append ((readAs_repSegs k c).repeated k.r)

/-- Settles O46: each part of a telegram is read as its bursts, since every burst is followed by a space. -/
theorem idealReadingsOfATelegram : Obligations.IdealReadingsOfATelegram :=
  fun k c n => (readAs_telegram k c).idealReadings_eq n

end Sys2Proof.Machine
end

section
/-! PROOFS. The memory family (20_memory.md), the channel: which answer a read takes, and that nothing after the read in
the same step takes another (R67, R74, R234). -/

namespace Sys2Proof.Machine

/-! ### The next answer -/

theorem nextAnswer_cons {s : State} {r : Reading} {rs : List Reading} (h : s.answers = r :: rs) : nextAnswer s = r := by
  simp [nextAnswer, h]

theorem nextAnswer_nil {s : State} (h : s.answers = []) : nextAnswer s = Config.channelAnswer s.freeReads := by
  simp [nextAnswer, h]

theorem dropAnswer_cons {s : State} {r : Reading} {rs : List Reading} (h : s.answers = r :: rs) :
    dropAnswer s = { s with answers := rs } := by
  simp [dropAnswer, h]

theorem dropAnswer_nil {s : State} (h : s.answers = []) : dropAnswer s = { s with freeReads := s.freeReads + 1 } := by
  simp [dropAnswer, h]

/-! ### A read step takes one answer -/

/-- t is s after work that takes no answer from the channel and keeps the actions recorded. -/
structure NoFurtherRead (s t : State) : Prop where
  answers : t.answers = s.answers
  freeReads : t.freeReads = s.freeReads
  decLog : s.decLog <+: t.decLog

theorem noFurtherRead_onBit (b : Bool) (s : State) : NoFurtherRead s (onBit b s) := by
  by_cases hlast : s.dec.n + 1 = 24
  · rw [onBit_completes hlast]; exact ⟨rfl, rfl, List.prefix_append _ _⟩
  · rw [onBit_collects hlast]; exact ⟨rfl, rfl, List.prefix_rfl⟩

/-- After its read, D.AWAIT_READ takes no further answer (R174). -/
theorem noFurtherRead_awaitRead (s : State) : NoFurtherRead (measurePulse s.cfg.dec.toStart s) (awaitRead s) := by
  rcases awaitRead_cases s with ⟨-, h⟩ | ⟨-, -, h⟩ | ⟨-, -, h⟩ | ⟨-, h⟩ <;> rw [h]
  -- the timeout that ends the attempt: NoStart is reported after the read
  case inr.inl => exact ⟨rfl, rfl, List.prefix_append _ _⟩
  all_goals exact ⟨rfl, rfl, List.prefix_rfl⟩

/-- After its read, D.READ_BIT takes no further answer (R176, R177). -/
theorem noFurtherRead_readBitStep (s : State) : NoFurtherRead (measurePulse s.cfg.dec.toBit s) (readBitStep s) := by
  rcases readBitStep_cases s with ⟨-, h⟩ | ⟨b, -, h⟩ <;> rw [h]
  · exact ⟨rfl, rfl, List.prefix_append _ _⟩
  · exact noFurtherRead_onBit b _

/-- The first action of a read step is its read, with the answer that was next (R234). -/
theorem NoFurtherRead.action {timeout : Nat} {s t : State} (h : NoFurtherRead (measurePulse timeout s) t) :
    t.decLog[s.decLog.length]? = some (.measure timeout (nextAnswer s)) := by
  obtain ⟨later, hlog⟩ := h.decLog
  simp [← hlog]

/-- With an answer listed, the read takes it off the list (R67). -/
theorem NoFurtherRead.of_listed {timeout : Nat} {s t : State} (h : NoFurtherRead (measurePulse timeout s) t)
    {r : Reading} {rs : List Reading} (hr : s.answers = r :: rs) :
    t.answers = rs ∧ t.freeReads = s.freeReads ∧ t.decLog[s.decLog.length]? = some (.measure timeout r) := by
  refine ⟨h.answers.trans ?_, h.freeReads.trans ?_, nextAnswer_cons hr ▸ h.action⟩
  · rw [measurePulse_answers, hr, List.tail_cons]
  · rw [measurePulse_freeReads, dropAnswer_cons hr]

/-- With none listed, the read takes the next free value (R74). -/
theorem NoFurtherRead.of_free {timeout : Nat} {s t : State} (h : NoFurtherRead (measurePulse timeout s) t)
    (hnone : s.answers = []) :
    t.answers = [] ∧ t.freeReads = s.freeReads + 1 ∧
      t.decLog[s.decLog.length]? = some (.measure timeout (Config.channelAnswer s.freeReads)) := by
  refine ⟨h.answers.trans ?_, h.freeReads.trans ?_, nextAnswer_nil hnone ▸ h.action⟩
  · rw [measurePulse_answers, hnone, List.tail_nil]
  · rw [measurePulse_freeReads, dropAnswer_nil hnone]

/-- Settles O12: each read step is one read and then work that takes no answer. -/
theorem aReadTakesTheNextAnswer : Obligations.AReadTakesTheNextAnswer := by
  refine ⟨fun s hst hguard => ⟨awaitRead s, whenSelected_next.mpr ⟨⟨hst, hguard⟩, rfl⟩, ?await⟩,
    fun s hst => ⟨readBitStep s, whenSelected_next.mpr ⟨hst, rfl⟩, ?read⟩,
    fun _ _ _ hr => ⟨nextAnswer_cons hr, dropAnswer_cons hr⟩,
    fun _ hnone => ⟨nextAnswer_nil hnone, dropAnswer_nil hnone⟩⟩
  case await => exact ⟨fun _ _ => (noFurtherRead_awaitRead s).of_listed, (noFurtherRead_awaitRead s).of_free⟩
  case read => exact ⟨fun _ _ => (noFurtherRead_readBitStep s).of_listed, (noFurtherRead_readBitStep s).of_free⟩

end Sys2Proof.Machine
end

section
/-! PROOFS. The encoding family (30_encoding.md), the classes: the bands a measured duration can lie in, in AwaitStart and
in ReadingBits (R91, R92). -/

namespace Sys2Proof.Machine

/-- The two bands of AwaitStart, which leave no duration out (R91). -/
theorem classifyAwait_some_bands (e d : Nat) :
    (5 * e ≤ d ∧ d ≤ 7 * e ∧ classifyAwait e (some d) = .inBand) ∨
    ((d < 5 * e ∨ d > 7 * e) ∧ classifyAwait e (some d) = .outOfBand) := by
  rw [classifyAwait_some]
  split
  · exact .inl ⟨by omega, by omega, rfl⟩
  · exact .inr ⟨by omega, rfl⟩

theorem classifyAwait_some_inBand {e d : Nat} : classifyAwait e (some d) = .inBand ↔ 5 * e ≤ d ∧ d ≤ 7 * e := by
  rcases classifyAwait_some_bands e d with ⟨h₁, h₂, h⟩ | ⟨h₁, h⟩ <;> simp [h] <;> omega

theorem classifyAwait_some_outOfBand {e d : Nat} :
    classifyAwait e (some d) = .outOfBand ↔ d < 5 * e ∨ d > 7 * e := by
  rcases classifyAwait_some_bands e d with ⟨h₁, h₂, h⟩ | ⟨h₁, h⟩ <;> simp [h] <;> omega

theorem classifyAwait_some_ne_timeout (e d : Nat) : classifyAwait e (some d) ≠ .timeout := by
  rcases classifyAwait_some_bands e d with ⟨-, -, h⟩ | ⟨-, h⟩ <;> rw [h] <;> nofun

/-- The four bands of ReadingBits, which leave no duration out (R92). -/
theorem classifyRead_some_bands (e d : Nat) :
    (d < e ∧ classifyRead e (some d) = .abortShort) ∨
    (e ≤ d ∧ 5 * e < d ∧ classifyRead e (some d) = .abortLong) ∨
    (3 * e < d ∧ d ≤ 5 * e ∧ classifyRead e (some d) = .one) ∨
    (e ≤ d ∧ d ≤ 3 * e ∧ classifyRead e (some d) = .zero) := by
  rw [classifyRead_some]
  split
  · exact .inl ⟨by omega, rfl⟩
  · split
    · exact .inr (.inl ⟨by omega, by omega, rfl⟩)
    · split
      · exact .inr (.inr (.inl ⟨by omega, by omega, rfl⟩))
      · exact .inr (.inr (.inr ⟨by omega, by omega, rfl⟩))

theorem classifyRead_some_abortShort {e d : Nat} : classifyRead e (some d) = .abortShort ↔ d < e := by
  rcases classifyRead_some_bands e d with ⟨h₁, h⟩ | ⟨h₁, h₂, h⟩ | ⟨h₁, h₂, h⟩ | ⟨h₁, h₂, h⟩ <;> simp [h] <;> omega

theorem classifyRead_some_abortLong {e d : Nat} : classifyRead e (some d) = .abortLong ↔ ¬ d < e ∧ d > 5 * e := by
  rcases classifyRead_some_bands e d with ⟨h₁, h⟩ | ⟨h₁, h₂, h⟩ | ⟨h₁, h₂, h⟩ | ⟨h₁, h₂, h⟩ <;> simp [h] <;> omega

theorem classifyRead_some_one {e d : Nat} : classifyRead e (some d) = .one ↔ 3 * e < d ∧ d ≤ 5 * e := by
  rcases classifyRead_some_bands e d with ⟨h₁, h⟩ | ⟨h₁, h₂, h⟩ | ⟨h₁, h₂, h⟩ | ⟨h₁, h₂, h⟩ <;> simp [h] <;> omega

theorem classifyRead_some_zero {e d : Nat} : classifyRead e (some d) = .zero ↔ e ≤ d ∧ d ≤ 3 * e := by
  rcases classifyRead_some_bands e d with ⟨h₁, h⟩ | ⟨h₁, h₂, h⟩ | ⟨h₁, h₂, h⟩ | ⟨h₁, h₂, h⟩ <;> simp [h] <;> omega

theorem classifyRead_some_ne_timeout (e d : Nat) : classifyRead e (some d) ≠ .timeout := by
  rcases classifyRead_some_bands e d with ⟨-, h⟩ | ⟨-, -, h⟩ | ⟨-, -, h⟩ | ⟨-, -, h⟩ <;> rw [h] <;> nofun

/-- Settles O21: `none` is the timeout of both phases, and a duration lies in its band. -/
theorem readingsFallInTheirClasses : Obligations.ReadingsFallInTheirClasses := by
  intro e r
  cases r with
  | none => simp
  | some d =>
    simp [classifyAwait_some_inBand, classifyAwait_some_outOfBand, classifyAwait_some_ne_timeout,
      classifyRead_some_abortShort, classifyRead_some_abortLong, classifyRead_some_one, classifyRead_some_zero,
      classifyRead_some_ne_timeout]

end Sys2Proof.Machine
end

section
/-! PROOFS. The encoding family (30_encoding.md), the codes: a code read back is the instruction it was made from, and
what the decoder answers lies in its encoding (R80, R86, R91 to R97). -/

namespace Sys2Proof.Machine

/-! ### Symbols -/

/-- The segments of a 0 and of a 1 differ, since their widths `2*ERR` and `4*ERR` do (R81, R82). -/
theorem symSegs_zero_ne_one {k : EncConfig} (h : wellFormedEnc k = true) : symSegs k .zero ≠ symSegs k .one := by
  obtain ⟨herr, -⟩ := wellFormedEnc_iff.mp h
  simp only [symSegs, pulse, bit0Width, bit1Width, ne_eq, List.cons.injEq, Segment.mk.injEq]
  omega

/-- A symbol is found again by its place and its segments (R80, R99). -/
theorem decodeSymbol_symSegs {k : EncConfig} (h : wellFormedEnc k = true) (y : Sym) :
    decodeSymbol k (symPosition y) (symSegs k y) = .ok (symInstr y) := by
  cases y with
  | one => simp [decodeSymbol, symPosition, symsOf, symSegs_zero_ne_one h]
  | zero | start | pre0 | stop => simp [decodeSymbol, symPosition, symsOf]

/-- What the symbol decoder answers is the row of a symbol. -/
theorem eq_symInstr_of_decodeSymbol {k : EncConfig} {position : EncSt} {segs : List Segment} {i : Instr}
    (h : decodeSymbol k position segs = .ok i) : ∃ y, i = symInstr y := by
  unfold decodeSymbol at h
  split at h
  · next y _ => exact ⟨y, (Decoded.ok.inj h).symm⟩
  · cases h

/-- The row of a symbol is well formed where the encoder configuration is (R112, R113). -/
theorem wellFormed_symInstr (b : Build) (y : Sym) : wellFormed b (symInstr y) = wellFormedEnc b.enc := by
  cases y <;> rfl

/-! ### Frame words -/

/-- A frame word that may stand at its side is read as its three fields (R86). -/
theorem decodeFrame24_packFrame {b : Build} {side : Side} {a c i : Byte}
    (h : wellFormed b (.frameWord side a c i) = true) :
    decodeFrame24 b side (packFrame a c i) = .ok (.frameWord side a c i) := by
  cases side with
  | encoder =>
    have hformed : formedByEncoder b a c i = true := h
    simp [decodeFrame24, hformed]
  | decoder => simp [decodeFrame24]

theorem wellFormed_of_decodeFrame24 {b : Build} {side : Side} {w : Frame24} {i : Instr}
    (h : decodeFrame24 b side w = .ok i) : wellFormed b i = true := by
  unfold decodeFrame24 at h
  split at h
  · cases h; rfl
  · split at h
    · next hformed => cases h; exact hformed
    · cases h

/-! ### Readings -/

theorem decodeAwait_of_inBand {e d : Nat} (h : classifyAwait e (some d) = .inBand) :
    decodeAwait e (some d) = .awIn d := by
  simp [decodeAwait, h]

theorem decodeAwait_of_outOfBand {e d : Nat} (h : classifyAwait e (some d) = .outOfBand) :
    decodeAwait e (some d) = .awOut d := by
  simp [decodeAwait, h]

/-- The row of a reading in AwaitStart is the row of its class (R91). -/
theorem wellFormed_decodeAwait (b : Build) (r : Reading) : wellFormed b (decodeAwait b.dec.err r) = true := by
  cases r with
  | none => rfl
  | some d =>
    rcases classifyAwait_some_bands b.dec.err d with ⟨-, -, hin⟩ | ⟨-, hout⟩
    · rw [decodeAwait_of_inBand hin]; exact decide_eq_true hin
    · rw [decodeAwait_of_outOfBand hout]; exact decide_eq_true hout

theorem decodeRead_of_abortShort {e d : Nat} (h : classifyRead e (some d) = .abortShort) :
    decodeRead e (some d) = .rbAbortShort d := by
  simp [decodeRead, h]

theorem decodeRead_of_abortLong {e d : Nat} (h : classifyRead e (some d) = .abortLong) :
    decodeRead e (some d) = .rbAbortLong d := by
  simp [decodeRead, h]

theorem decodeRead_of_one {e d : Nat} (h : classifyRead e (some d) = .one) : decodeRead e (some d) = .rbOne d := by
  simp [decodeRead, h]

theorem decodeRead_of_zero {e d : Nat} (h : classifyRead e (some d) = .zero) : decodeRead e (some d) = .rbZero d := by
  simp [decodeRead, h]

/-- The row of a reading in ReadingBits is the row of its class (R92). -/
theorem wellFormed_decodeRead (b : Build) (r : Reading) : wellFormed b (decodeRead b.dec.err r) = true := by
  cases r with
  | none => rfl
  | some d =>
    rcases classifyRead_some_bands b.dec.err d with ⟨-, hshort⟩ | ⟨-, -, hlong⟩ | ⟨-, -, hone⟩ | ⟨-, -, hzero⟩
    · rw [decodeRead_of_abortShort hshort]; exact decide_eq_true hshort
    · rw [decodeRead_of_abortLong hlong]; exact decide_eq_true hlong
    · rw [decodeRead_of_one hone]; exact decide_eq_true hone
    · rw [decodeRead_of_zero hzero]; exact decide_eq_true hzero

/-! ### Results -/

/-- A frame result whose valid flag is `i == ~c` is read as the row of that flag (R93). -/
theorem decodeResult_frame {a c i : Byte} {valid : Bool} (h : valid = decide (i = complement c)) :
    decodeResult (.frame a c i valid) = .ok (if valid then .frameValidTrue a c i else .frameValidFalse a c i) :=
  if_pos h

theorem wellFormed_of_decodeResult {b : Build} {x : Result} {i : Instr} (h : decodeResult x = .ok i) :
    wellFormed b i = true := by
  cases x with
  | empty | incomplete | noStart => cases h; rfl
  | frame a c j valid =>
    by_cases hvalid : valid = decide (j = complement c)
    · rw [decodeResult_frame hvalid] at h
      cases h
      cases valid with
      | true => exact hvalid.symm
      | false => simpa [wellFormed] using hvalid
    · simp [decodeResult, hvalid] at h

/-! ### Selector words -/

/-- The rows of ENC_SEL have no condition on their operands (R95). -/
theorem wellFormed_of_decodeEncSel {b : Build} {sel : BitVec 4} {request : Option Byte} {i : Instr}
    (h : decodeEncSel sel request = .ok i) : wellFormed b i = true := by
  unfold decodeEncSel at h
  split at h
  · cases h
  · split at h
    · cases h; rfl
    · split at h <;> cases h <;> rfl

/-- The rows of DEC_SEL have no condition on their operands (R96). -/
theorem wellFormed_of_decodeDecSel {b : Build} {sel : BitVec 3} {request : Bool} {tries : Ordering} {i : Instr}
    (h : decodeDecSel sel request tries = .ok i) : wellFormed b i = true := by
  unfold decodeDecSel at h
  split at h
  · cases h
  · split at h
    · cases h; rfl
    · split at h <;> cases h <;> rfl

/-! ### The two functions together -/

/-- Settles O27, format by format: the selector words are closed facts, the other codes are read back by their operands. -/
theorem decodeOfEncodeIsTheInstruction : Obligations.DecodeOfEncodeIsTheInstruction := by
  intro b i h
  cases i with
  | transmit c => rfl
  | ePreBurst | ePreSpace | eStartBurst | eStartSpace | eDataBurst | eDataSpace | eStop
  | receive | dNostart | dAwaitRead | dGuard | dReadBit => rfl
  | symZero => exact decodeSymbol_symSegs h .zero
  | symOne => exact decodeSymbol_symSegs h .one
  | symStart => exact decodeSymbol_symSegs h .start
  | symPre0 => exact decodeSymbol_symSegs h .pre0
  | symStop => exact decodeSymbol_symSegs h .stop
  | frameWord side a c j => exact decodeFrame24_packFrame h
  | awIn d => exact congrArg Decoded.ok (decodeAwait_of_inBand (of_decide_eq_true h))
  | awOut d => exact congrArg Decoded.ok (decodeAwait_of_outOfBand (of_decide_eq_true h))
  | rbAbortShort d => exact congrArg Decoded.ok (decodeRead_of_abortShort (of_decide_eq_true h))
  | rbAbortLong d => exact congrArg Decoded.ok (decodeRead_of_abortLong (of_decide_eq_true h))
  | rbOne d => exact congrArg Decoded.ok (decodeRead_of_one (of_decide_eq_true h))
  | rbZero d => exact congrArg Decoded.ok (decodeRead_of_zero (of_decide_eq_true h))
  | frameValidTrue a c j => exact decodeResult_frame (Eq.symm h)
  | frameValidFalse a c j => exact decodeResult_frame (decide_eq_false (of_decide_eq_true h)).symm
  | txkey k => exact if_pos h
  | awTimeout | rbTimeout | incomplete | noStart | empty | reset => rfl

/-- Settles O28, format by format. -/
theorem decodedInstructionsAreWellFormed : Obligations.DecodedInstructionsAreWellFormed := by
  intro b c i henc h
  cases c with
  | encSel sel request => exact wellFormed_of_decodeEncSel h
  | decSel sel request tries => exact wellFormed_of_decodeDecSel h
  | symbol position segs =>
    obtain ⟨y, rfl⟩ := eq_symInstr_of_decodeSymbol h
    rw [wellFormed_symInstr, henc]
  | frame24 side w => exact wellFormed_of_decodeFrame24 h
  | classAwait r => cases h; exact wellFormed_decodeAwait b r
  | classRead r => cases h; exact wellFormed_decodeRead b r
  | result x => exact wellFormed_of_decodeResult h
  | pseudo k =>
    by_cases hk : keyInRange k = true
    · simp only [decode, if_pos hk, Decoded.ok.injEq] at h
      exact h ▸ hk
    · simp [decode, hk] at h
  | event => cases h; rfl

/-- Settles O29: each word is a closed fact of the two selector tables (R95, R96). -/
theorem selectorWordsDecode : Obligations.SelectorWordsDecode := by
  unfold Obligations.SelectorWordsDecode
  decide

end Sys2Proof.Machine
end

section
/-! PROOFS. The encoding family (30_encoding.md), the telegram: how many segments it has (R90), which pulses it is on the
line (R75, R85), and what those leave for the guard delay and the timeouts (R258 to R260). -/

namespace Sys2Proof.Machine

/-! ### The number of segments -/

/-- A frame bit is a burst and a space (R87). -/
theorem length_symSegs_bitSym (k : EncConfig) (b : Bool) : (symSegs k (bitSym b)).length = 2 := by
  cases b <;> rfl

theorem length_bitSegs (k : EncConfig) (fw : Frame24) : (bitSegs k fw).length = 48 := by
  simp [bitSegs, List.length_flatMap, length_symSegs_bitSym]

theorem length_preSegs (k : EncConfig) : (preSegs k).length = k.p * 2 := length_repeated k.p _

theorem length_startSegs (k : EncConfig) : (startSegs k).length = k.s * 2 := length_repeated k.s _

/-- A repetition is its start pulses, its 24 bits and one OFF segment (R89). -/
theorem length_repSegs (k : EncConfig) (c : Byte) : (repSegs k c).length = 2 * k.s + 49 := by
  have hstop : (symSegs k .stop).length = 1 := rfl
  rw [repSegs, List.length_append, List.length_append, length_startSegs, length_bitSegs, hstop]
  omega

/-- Settles O44, from the lengths of the telegram's parts. -/
theorem telegramHasItsNumberOfSegments : Obligations.TelegramHasItsNumberOfSegments := by
  intro k c
  rw [telegram, List.length_append, length_repeated, length_preSegs, length_repSegs, Nat.mul_comm k.p]

/-! ### The pulses of a segment list -/

/-- The segments l begin with a burst, or there are none. -/
def BeginsOn (l : List Segment) : Prop := ∀ g ∈ l.head?, g.level = .on

theorem beginsOn_nil : BeginsOn [] := nofun

theorem beginsOn_pulse (b d : Nat) (xs : List Segment) : BeginsOn (pulse b d ++ xs) := by
  simp [BeginsOn, pulse]

/-- A list that begins with a burst begins with one interval ON (R75). -/
theorem mergeRuns_of_beginsOn {xs : List Segment} (h : BeginsOn xs) :
    mergeRuns xs = [] ∨ ∃ b ys, mergeRuns xs = ⟨.on, b⟩ :: ys := by
  cases xs with
  | nil => exact .inl rfl
  | cons x xs =>
    obtain ⟨level, dur⟩ := x
    obtain rfl : level = .on := h _ rfl
    refine .inr ?_
    rw [mergeRuns]
    split
    · exact ⟨dur, [], rfl⟩
    · split
      · exact ⟨_, _, rfl⟩
      · exact ⟨dur, _, rfl⟩

/-- A space before a burst is an interval of its own. -/
theorem mergeRuns_off_cons_of_beginsOn (d : Nat) {xs : List Segment} (h : BeginsOn xs) :
    mergeRuns (⟨.off, d⟩ :: xs) = ⟨.off, d⟩ :: mergeRuns xs := by
  rw [mergeRuns]
  rcases mergeRuns_of_beginsOn h with hnil | ⟨b, ys, hon⟩
  · rw [hnil]
  · rw [hon]; exact if_neg Level.noConfusion

/-- A space and the gap after it are one interval (R75, R85). -/
theorem mergeRuns_off_off_cons (d g : Nat) {xs : List Segment} (h : BeginsOn xs) :
    mergeRuns (⟨.off, d⟩ :: ⟨.off, g⟩ :: xs) = ⟨.off, d + g⟩ :: mergeRuns xs := by
  rw [mergeRuns, mergeRuns_off_cons_of_beginsOn g h]
  exact if_pos rfl

/-- On the line the segments l are the pulses ps, whatever burst comes after them. -/
def PulsesAs (l : List Segment) (ps : List (Nat × Nat)) : Prop :=
  ∀ rest, BeginsOn rest → BeginsOn (l ++ rest) ∧ pulsesOf (mergeRuns (l ++ rest)) = ps ++ pulsesOf (mergeRuns rest)

theorem pulsesAs_nil : PulsesAs [] [] := fun _ hrest => ⟨hrest, rfl⟩

/-- A part of a telegram on its own, with nothing after it. -/
theorem PulsesAs.pulsesOf_eq {l : List Segment} {ps : List (Nat × Nat)} (h : PulsesAs l ps) :
    pulsesOf (mergeRuns l) = ps := by
  simpa [mergeRuns, pulsesOf] using (h [] beginsOn_nil).2

theorem PulsesAs.append {l m : List Segment} {ps qs : List (Nat × Nat)} (hl : PulsesAs l ps) (hm : PulsesAs m qs) :
    PulsesAs (l ++ m) (ps ++ qs) := fun rest hrest => by
  obtain ⟨hon, hpulses⟩ := hm rest hrest
  rw [List.append_assoc, List.append_assoc, ← hpulses]
  exact hl (m ++ rest) hon

theorem PulsesAs.repeated {l : List Segment} {ps : List (Nat × Nat)} (h : PulsesAs l ps) (n : Nat) :
    PulsesAs (repeated n l) (repeated n ps) := by
  induction n with
  | zero => exact pulsesAs_nil
  | succ n ih => exact h.append ih

/-- One part after the other, each of one pulse. -/
theorem pulsesAs_flatMap {α : Type} {f : α → List Segment} {g : α → Nat × Nat} {xs : List α}
    (h : ∀ x ∈ xs, PulsesAs (f x) [g x]) : PulsesAs (xs.flatMap f) (xs.map g) := by
  induction xs with
  | nil => exact pulsesAs_nil
  | cons x xs ih =>
    exact (h x List.mem_cons_self).append (ih fun y hy => h y (List.mem_cons_of_mem x hy))

theorem pulsesAs_pulse (b d : Nat) : PulsesAs (pulse b d) [(b, d)] := fun rest hrest => by
  refine ⟨beginsOn_pulse b d rest, ?_⟩
  change pulsesOf (mergeRuns (⟨.on, b⟩ :: ⟨.off, d⟩ :: rest)) = _
  rw [mergeRuns_on_off_cons, mergeRuns_off_cons_of_beginsOn d hrest]
  rfl

/-- A gap after a pulse lengthens its space (R85). -/
theorem pulsesAs_pulse_gap (b d g : Nat) : PulsesAs (pulse b d ++ [⟨.off, g⟩]) [(b, d + g)] := fun rest hrest => by
  rw [List.append_assoc]
  refine ⟨beginsOn_pulse b d _, ?_⟩
  change pulsesOf (mergeRuns (⟨.on, b⟩ :: ⟨.off, d⟩ :: ⟨.off, g⟩ :: rest)) = _
  rw [mergeRuns_on_off_cons, mergeRuns_off_off_cons d g hrest]
  rfl

/-! ### The pulses of a telegram -/

/-- The pulse of frame bit i: the space of the last bit is merged with the stop gap (`pulsesAs_repSegs`). -/
def frameBitPulse (k : EncConfig) (c : Byte) (i : Nat) : Nat × Nat :=
  let w := bitWidth k.err (frameBit (frameWordOf k.addr c) i)
  (w, if i = 23 then gapAfterRepetition k c else w)

/-- The pulses of one repetition (`pulsesAs_repSegs`). -/
def repPulses (k : EncConfig) (c : Byte) : List (Nat × Nat) :=
  List.replicate k.s (6 * k.err, 6 * k.err) ++ (List.range 24).map (frameBitPulse k c)

theorem symSegs_bitSym (k : EncConfig) (b : Bool) :
    symSegs k (bitSym b) = pulse (bitWidth k.err b) (bitWidth k.err b) := by
  cases b <;> rfl

/-- The last frame bit and the stop gap are one pulse (R85). -/
theorem pulsesAs_last_bit (k : EncConfig) (c : Byte) :
    PulsesAs (symSegs k (bitSym (frameBit (frameWordOf k.addr c) 23)) ++ symSegs k .stop) [frameBitPulse k c 23] := by
  rw [symSegs_bitSym]
  exact pulsesAs_pulse_gap _ _ (8 * k.err)

/-- The frame bits and the stop gap are 24 pulses. -/
theorem pulsesAs_bitSegs_stop (k : EncConfig) (c : Byte) :
    PulsesAs (bitSegs k (frameWordOf k.addr c) ++ symSegs k .stop) ((List.range 24).map (frameBitPulse k c)) := by
  rw [bitSegs, List.range_succ, List.flatMap_append, List.map_append, List.append_assoc, List.flatMap_singleton]
  refine PulsesAs.append (pulsesAs_flatMap fun i hi => ?_) (pulsesAs_last_bit k c)
  have hi : i ≠ 23 := (List.mem_range.mp hi).ne
  rw [symSegs_bitSym, frameBitPulse, if_neg hi]
  exact pulsesAs_pulse _ _

theorem pulsesAs_repSegs (k : EncConfig) (c : Byte) : PulsesAs (repSegs k c) (repPulses k c) := by
  rw [repSegs, repPulses, List.append_assoc, ← repeated_singleton]
  exact ((pulsesAs_pulse _ _).repeated k.s).append (pulsesAs_bitSegs_stop k c)

/-- The whole telegram on the line, pulse by pulse. -/
theorem linePulses_eq (k : EncConfig) (c : Byte) :
    linePulses k c =
      List.replicate k.p (2 * k.err, preSpaceWidth k) ++ repeated k.r (repPulses k c) := by
  rw [← repeated_singleton]
  exact (((pulsesAs_pulse _ _).repeated k.p).append ((pulsesAs_repSegs k c).repeated k.r)).pulsesOf_eq

theorem length_repPulses (k : EncConfig) (c : Byte) : (repPulses k c).length = k.s + 24 := by
  simp [repPulses]

theorem length_linePulses (k : EncConfig) (c : Byte) : (linePulses k c).length = k.p + k.r * (k.s + 24) := by
  simp [linePulses_eq, length_repPulses]

/-- Entry i of copy j of a repeated list. -/
theorem getElem?_repeated {α : Type} {l : List α} {n j i : Nat} (hj : j < n) (hi : i < l.length) :
    (repeated n l)[j * l.length + i]? = l[i]? := by
  induction n generalizing j with
  | zero => omega
  | succ n ih =>
    cases j with
    | zero => rw [repeated, Nat.zero_mul, Nat.zero_add, List.getElem?_append_left hi]
    | succ j =>
      have hstart : (j + 1) * l.length + i = l.length + (j * l.length + i) := by rw [Nat.succ_mul]; omega
      rw [repeated, hstart, List.getElem?_append_right (Nat.le_add_right _ _), Nat.add_sub_cancel_left]
      exact ih (Nat.lt_of_succ_lt_succ hj)

/-- Preamble pulse i (R258). -/
theorem linePulses_preamble {k : EncConfig} (c : Byte) {i : Nat} (hi : i < k.p) :
    (linePulses k c)[i]? = some (2 * k.err, preSpaceWidth k) := by
  rw [linePulses_eq, List.getElem?_append_left (by simpa using hi), List.getElem?_replicate_of_lt hi]

/-- Pulse i of repetition j is the i-th of the repetition's own pulses. -/
theorem linePulses_repetition {k : EncConfig} (c : Byte) {j i : Nat} (hj : j < k.r) (hi : i < k.s + 24) :
    (linePulses k c)[startPulse k j i]? = (repPulses k c)[i]? := by
  rw [← length_repPulses k c] at hi
  rw [linePulses_eq, startPulse, Nat.add_assoc, ← length_repPulses k c,
    List.getElem?_append_right (by simp), List.length_replicate, Nat.add_sub_cancel_left]
  exact getElem?_repeated hj hi

/-- Start pulse i of repetition j. -/
theorem linePulses_start {k : EncConfig} (c : Byte) {j i : Nat} (hj : j < k.r) (hi : i < k.s) :
    (linePulses k c)[startPulse k j i]? = some (6 * k.err, 6 * k.err) := by
  rw [linePulses_repetition c hj (by omega), repPulses, List.getElem?_append_left (by simpa using hi),
    List.getElem?_replicate_of_lt hi]

/-- Frame bit i of repetition j. -/
theorem linePulses_frameBit {k : EncConfig} (c : Byte) {j i : Nat} (hj : j < k.r) (hi : i < 24) :
    (linePulses k c)[bitPulse k j i]? = some (frameBitPulse k c i) := by
  have hplace : bitPulse k j i = startPulse k j (k.s + i) := Nat.add_assoc _ _ _
  rw [hplace, linePulses_repetition c hj (by omega), repPulses, List.getElem?_append_right (by simp)]
  simp [hi]

/-- The pulse before the first frame bit of a repetition is a start pulse. -/
theorem linePulses_before_bits {k : EncConfig} (c : Byte) {j : Nat} (hs : 1 ≤ k.s) (hj : j < k.r) :
    (linePulses k c)[bitPulse k j 0 - 1]? = some (6 * k.err, 6 * k.err) := by
  have hplace : bitPulse k j 0 - 1 = startPulse k j (k.s - 1) := by unfold bitPulse startPulse; omega
  rw [hplace]
  exact linePulses_start c hj (by omega)

/-- The pulse after the last frame bit of a repetition is the first start pulse of the next. -/
theorem linePulses_after_bits {k : EncConfig} (c : Byte) {j : Nat} (hs : 1 ≤ k.s) (hj : j + 1 < k.r) :
    (linePulses k c)[bitPulse k j 23 + 1]? = some (6 * k.err, 6 * k.err) := by
  have hplace : bitPulse k j 23 + 1 = startPulse k (j + 1) 0 := by
    unfold bitPulse startPulse; rw [Nat.succ_mul]; omega
  rw [hplace]
  exact linePulses_start c hj hs

/-! ### How long the pulses are -/

theorem bitWidth_bounds (e : Nat) (b : Bool) : 2 * e ≤ bitWidth e b ∧ bitWidth e b ≤ 4 * e := by
  cases b <;> simp only [bitWidth, bit0Width, bit1Width] <;> omega

/-- The gap after a repetition is from 10 to 12 base units (R260). -/
theorem gapAfterRepetition_bounds (k : EncConfig) (c : Byte) :
    10 * k.err ≤ gapAfterRepetition k c ∧ gapAfterRepetition k c ≤ 12 * k.err := by
  have := bitWidth_bounds k.err ((frameWordOf k.addr c).getLsbD 0)
  unfold gapAfterRepetition
  omega

theorem mem_repeated {α : Type} {n : Nat} {l : List α} {x : α} (h : x ∈ repeated n l) : x ∈ l := by
  induction n with
  | zero => cases h
  | succ n ih => exact (List.mem_append.mp h).elim id ih

/-- Every pulse of a telegram is one of the preamble, of a start sequence or of a frame. -/
theorem mem_linePulses {k : EncConfig} {c : Byte} {x : Nat × Nat} (h : x ∈ linePulses k c) :
    x = (2 * k.err, preSpaceWidth k) ∨ x = (6 * k.err, 6 * k.err) ∨ ∃ i, x = frameBitPulse k c i := by
  rw [linePulses_eq, List.mem_append] at h
  rcases h with hpre | hrep
  · exact .inl (List.eq_of_mem_replicate hpre)
  · rcases List.mem_append.mp (mem_repeated hrep) with hstart | hbits
    · exact .inr (.inl (List.eq_of_mem_replicate hstart))
    · obtain ⟨i, -, rfl⟩ := List.mem_map.mp hbits
      exact .inr (.inr ⟨i, rfl⟩)

/-- No burst is longer than a start burst, and no OFF run longer than the gap after a 1. -/
theorem linePulses_bounds {k : EncConfig} {c : Byte} {x : Nat × Nat} (htec : k.tec ≤ 2 * k.err)
    (h : x ∈ linePulses k c) : x.1 ≤ 6 * k.err ∧ x.2 ≤ 12 * k.err := by
  rcases mem_linePulses h with rfl | rfl | ⟨i, rfl⟩
  · simp only [preSpaceWidth_eq htec]; omega
  · simp only; omega
  · have hw := bitWidth_bounds k.err (frameBit (frameWordOf k.addr c) i)
    have hg := gapAfterRepetition_bounds k c
    simp only [frameBitPulse]
    split <;> omega

/-! ### The guard delay and the timeouts -/

/-- A read is settled no later with a shorter OFF time and a shorter burst. -/
theorem settleTime_le {off off' burst burst' : Nat} (b : TimeoutBasis) (hoff : off ≤ off') (hburst : burst ≤ burst') :
    settleTime off burst b ≤ settleTime off' burst' b := by
  cases b with
  | edge => exact hoff
  | whole => exact Nat.add_le_add hoff hburst

/-- R259's bound is the settling time of the longest OFF time and the longest burst of a bit read. -/
theorem bitTimeoutBound_eq (ke : EncConfig) (kd : DecConfig) (b : TimeoutBasis) :
    bitTimeoutBound ke kd b = settleTime (max (6 * ke.err - kd.guardDelay) (4 * ke.err)) (4 * ke.err) b := by
  cases b <;> rfl

/-- R259: with TO_BIT above its bound no bit read times out. -/
theorem bitReadsInTime_of_bound {ke : EncConfig} {kd : DecConfig} (c : Byte) {b : TimeoutBasis} (hs : 1 ≤ ke.s)
    (hbound : bitTimeoutBound ke kd b < kd.toBit) : bitReadsInTime ke kd c b := by
  intro j i x y hj hi hx hy
  rw [linePulses_frameBit c hj hi, Option.some.injEq] at hy
  refine Nat.lt_of_le_of_lt ?_ hbound
  rw [bitTimeoutBound_eq]
  have hburst : y.1 ≤ 4 * ke.err := hy ▸ (bitWidth_bounds ke.err _).2
  refine settleTime_le b ?_ hburst
  cases i with
  | zero =>
    rw [linePulses_before_bits c hs hj, Option.some.injEq] at hx
    rw [if_pos rfl, ← hx]
    exact Nat.le_max_left _ _
  | succ i =>
    have hprev : bitPulse ke j (i + 1) - 1 = bitPulse ke j i := rfl
    rw [hprev, linePulses_frameBit c hj (by omega), Option.some.injEq] at hx
    rw [if_neg (Nat.succ_ne_zero i), ← hx, frameBitPulse, if_neg (by omega)]
    exact (bitWidth_bounds ke.err _).2.trans (Nat.le_max_right _ _)

/-- R258: the guard delay and the processing time end inside the last start space. -/
theorem guardInTime_iff {ke : EncConfig} (kd : DecConfig) (c : Byte) (processing : Nat) (hs : 1 ≤ ke.s)
    (hr : 1 ≤ ke.r) : guardInTime ke kd c processing ↔ kd.guardDelay + processing < 6 * ke.err := by
  constructor
  · intro h
    exact h 0 _ hr (linePulses_before_bits c hs hr)
  · intro h j x hj hx
    rw [linePulses_before_bits c hs hj, Option.some.injEq] at hx
    rwa [← hx]

/-- R260 under EDGE: a read waits no longer than the longest OFF run. -/
theorem startReadsInTime_edge {ke : EncConfig} {kd : DecConfig} (c : Byte) (htec : ke.tec ≤ 2 * ke.err)
    (h : 12 * ke.err ≤ kd.toStart) : startReadsInTime ke kd c .edge := by
  intro n x y hx _
  exact (linePulses_bounds htec (List.mem_of_getElem? hx)).2.trans h

/-- R260 under WHOLE: a read waits no longer than the longest OFF run and a start burst. -/
theorem startReadsInTime_whole {ke : EncConfig} {kd : DecConfig} (c : Byte) (htec : ke.tec ≤ 2 * ke.err)
    (h : 18 * ke.err ≤ kd.toStart) : startReadsInTime ke kd c .whole := by
  intro n x y hx hy
  have hoff := (linePulses_bounds htec (List.mem_of_getElem? hx)).2
  have hburst := (linePulses_bounds htec (List.mem_of_getElem? hy)).1
  change x.2 + y.1 ≤ kd.toStart
  omega

/-- R260 under WHOLE: the first start pulse of the next repetition is lost with a TO_START below 16 base units. -/
theorem not_startReadsInTime_whole {ke : EncConfig} {kd : DecConfig} (c : Byte) (hs : 1 ≤ ke.s) (hr : 1 < ke.r)
    (h : kd.toStart < 16 * ke.err) : ¬ startReadsInTime ke kd c .whole := by
  intro hin
  have hread := hin _ _ _ (linePulses_frameBit c (Nat.zero_lt_of_lt hr) (i := 23) (by omega))
    (linePulses_after_bits c hs hr)
  have hgap := (gapAfterRepetition_bounds ke c).1
  change gapAfterRepetition ke c + 6 * ke.err ≤ kd.toStart at hread
  omega

/-- R259: the default timeouts of R11 are above the bound. -/
theorem bitTimeoutBound_default {ke : EncConfig} {kd : DecConfig} (b : TimeoutBasis) (herr : 1 ≤ ke.err)
    (hmatched : kd.err = ke.err) (hguard : kd.guardDelay = 2 * kd.err) (hto : kd.toBit = 10 * kd.err) :
    bitTimeoutBound ke kd b < kd.toBit := by
  cases b <;> simp only [bitTimeoutBound] <;> omega

/-- Settles O26: the pulses by their places on the line, and the bounds from the longest burst and OFF run. -/
theorem timeoutsInsideATelegram : Obligations.TimeoutsInsideATelegram := by
  intro ke kd c hwf
  obtain ⟨herr, hs, hr, htec'⟩ := wellFormedEnc_iff.mp hwf
  have htec : ke.tec ≤ 2 * ke.err := by omega
  refine ⟨length_linePulses ke c, fun i hi => ?pre, fun j i => linePulses_start c,
    fun j i hj hi w hw => hw ▸ linePulses_frameBit c hj hi, fun b => bitReadsInTime_of_bound c hs,
    fun processing => guardInTime_iff kd c processing hs hr, fun hmatched => ⟨?guard, ?bits, ?edge, ?lost, ?whole⟩⟩
  case pre => rw [linePulses_preamble c hi, preSpaceWidth_eq htec]
  case guard =>
    intro hguard processing
    rw [guardInTime_iff kd c processing hs hr]
    omega
  case bits =>
    exact fun hguard hto b => bitReadsInTime_of_bound c hs (bitTimeoutBound_default b herr hmatched hguard hto)
  case edge => exact fun hto => startReadsInTime_edge c htec (by omega)
  case lost => exact fun hto hr' => not_startReadsInTime_whole c hs hr' (by omega)
  case whole => exact fun hto => startReadsInTime_whole c htec (by omega)

end Sys2Proof.Machine
end

section
/-! PROOFS. The encoding family (30_encoding.md), the operations: which operation a selector word runs (R95, R96), where an
operation is refused, and TXKEY (R97). -/

namespace Sys2Proof.Machine

/-! ### Off its selector -/

/-- A step under a selector is refused exactly where the selector does not hold (assumption log 5). -/
theorem whenSelected_refused_iff {g : Prop} [Decidable g] {t : State} :
    whenSelected g t = .refused .notSelected ↔ ¬ g := by
  rw [whenSelected_refused, and_iff_left rfl]

/-- Settles O20: each operation runs under its selector, the guard on the budget written out. -/
theorem operationsAreRefusedOffTheirSelector : Obligations.OperationsAreRefusedOffTheirSelector := by
  intro s
  refine ⟨whenSelected_refused_iff, whenSelected_refused_iff, whenSelected_refused_iff, whenSelected_refused_iff,
    whenSelected_refused_iff, whenSelected_refused_iff, whenSelected_refused_iff, ?spent, ?unspent,
    whenSelected_refused_iff, whenSelected_refused_iff⟩
  case spent =>
    rw [← compareBudget_eq]
    exact whenSelected_refused_iff
  case unspent =>
    rw [← compareBudget_lt]
    exact whenSelected_refused_iff

/-! ### A move runs what its selector word says -/

/-- A step takes the listed event and runs what its code decodes to. -/
theorem step_of_listed_event {s : State} {ev : Event} {evs : List Event} {i : Instr} (hev : s.events = ev :: evs)
    (hcode : decode s.cfg (eventCode s ev) = .ok i) : step s = exec i { s with events := evs } := by
  have hfetched : fetched s = .ok i := by rw [fetched, fetchCode, nextEvent_cons hev, hcode]
  rw [step_of_fetched hfetched, dropEvent_cons hev]

/-- A move of the encoder runs the operation of its selector word (R95). -/
theorem step_of_encoder_move {s : State} {evs : List Event} {st : EncSt} {ph : Phase} {i : Instr}
    (hev : s.events = .move .encoder :: evs) (hst : s.enc.st = st) (hph : s.enc.ph = ph)
    (hsel : decodeEncSel (encSelector st ph) none = .ok i) : step s = exec i { s with events := evs } := by
  subst hst hph
  exact step_of_listed_event hev hsel

/-- A move of the decoder runs the operation of its selector word and its guard (R96). -/
theorem step_of_decoder_move {s : State} {evs : List Event} {st : DecSt} {i : Instr}
    (hev : s.events = .move .decoder :: evs) (hst : s.dec.st = st)
    (hsel : decodeDecSel (decStCode st) false (triesGuard s) = .ok i) : step s = exec i { s with events := evs } := by
  subst hst
  exact step_of_listed_event hev hsel

/-- The phase bit of a STOP word is ignored (R95). -/
theorem decodeEncSel_stop (ph : Phase) : decodeEncSel (encSelector .stop ph) none = .ok .eStop := by
  cases ph <;> rfl

/-- A request selects TRANSMIT in every state of the encoder (R95, R132). -/
theorem decodeEncSel_request (st : EncSt) (ph : Phase) (c : Byte) :
    decodeEncSel (encSelector st ph) (some c) = .ok (.transmit c) := by
  cases st <;> cases ph <;> rfl

/-- A request selects RECEIVE in every state of the decoder (R96, R172). -/
theorem decodeDecSel_request (st : DecSt) (tries : Ordering) : decodeDecSel (decStCode st) true tries = .ok .receive := by
  cases st <;> rfl

theorem keyInRange_iff {k : Nat} : keyInRange k = true ↔ 1 ≤ k ∧ k ≤ 5 := by
  simp [keyInRange]

/-- Settles O30, move by move: each has its selector word or its request. -/
theorem everyMoveRunsItsSelectedOperation : Obligations.EveryMoveRunsItsSelectedOperation := by
  intro s evs
  refine ⟨fun hev => ?encoder, fun hev => ?decoder, fun c hev => ?transmit, fun k hev hlow hhigh => ?txkey,
    fun hev => ?receive, fun hev => step_of_listed_event hev rfl⟩
  case encoder =>
    exact ⟨fun hst hph => step_of_encoder_move hev hst hph rfl, fun hst hph => step_of_encoder_move hev hst hph rfl,
      fun hst hph => step_of_encoder_move hev hst hph rfl, fun hst hph => step_of_encoder_move hev hst hph rfl,
      fun hst hph => step_of_encoder_move hev hst hph rfl, fun hst hph => step_of_encoder_move hev hst hph rfl,
      fun hst => step_of_encoder_move hev hst rfl (decodeEncSel_stop _)⟩
  case decoder =>
    refine ⟨fun hst hspent => step_of_decoder_move hev hst ?_, fun hst hleft => step_of_decoder_move hev hst ?_,
      fun hst => step_of_decoder_move hev hst rfl, fun hst => step_of_decoder_move hev hst rfl⟩
    · rw [triesGuard, compareBudget_eq.mpr hspent]; rfl
    · rw [triesGuard, compareBudget_lt.mpr hleft]; rfl
  case transmit => exact step_of_listed_event hev (decodeEncSel_request s.enc.st s.enc.ph c)
  case txkey => exact step_of_listed_event hev (if_pos (keyInRange_iff.mpr ⟨hlow, hhigh⟩))
  case receive => exact step_of_listed_event hev (decodeDecSel_request s.dec.st (triesGuard s))

/-! ### The accepted requests -/

/-- The complement of a byte is its distance from 255 (R18, R116). -/
theorem complement_eq_sub (c : Byte) : complement c = 255#8 - c := by
  unfold complement
  bv_omega

theorem frameWordOf_eq (addr c : Byte) : frameWordOf addr c = addr ++ c ++ (255#8 - c) := by
  rw [frameWordOf, complement_eq_sub, packFrame]

/-- An idle encoder of a well-formed configuration accepts a command (R131). -/
theorem requestTransmit_accepted {s : State} (c : Byte) (hst : s.enc.st = .idle) (hwf : wellFormedEnc s.cfg.enc = true) :
    requestTransmit c s = startTelegram c s := by
  simp [requestTransmit, encBusy, hst, hwf]

/-- A decoder at rest of a well-formed configuration accepts a request (R171). -/
theorem requestReceive_accepted {s : State} (hbusy : decBusy s = false) (hwf : wellFormedDec s.cfg.dec = true) :
    requestReceive s = startAttempt s := by
  simp [requestReceive, hbusy, hwf]

/-- An accepted command makes the encoder busy (R131). -/
theorem encBusy_startTelegram (c : Byte) (s : State) : encBusy (startTelegram c s) = true := by
  rw [encBusy, startTelegram_enc]
  split <;> rfl

/-- TXKEY of a key of REGISTRY is TRANSMIT of its byte (R97). -/
theorem exec_txkey_of_registry {k : Nat} {c : Byte} {s : State} (h : registryOf s.cfg.enc.registry k = some c) :
    exec (.txkey k) s = exec (.transmit c) s := by
  simp only [exec, execTxkey, h, execTransmit]

theorem registryOf_eq_none {g : Registry} {k : Nat} (h : k = 0 ∨ 5 < k) : registryOf g k = none := by
  rcases h with rfl | h
  · rfl
  · obtain ⟨m, rfl⟩ : ∃ m, k = m + 6 := ⟨k - 6, by omega⟩
    rfl

/-- Settles O18, key by key. -/
theorem txkeyIsTransmitOfTheRegistry : Obligations.TxkeyIsTransmitOfTheRegistry := by
  intro k s
  refine ⟨fun c hkey => ⟨requestTransmit c s, ?key, rfl, fun hst hwf => ?accepted⟩, fun hk => ?other⟩
  case key =>
    have hreg : registryOf s.cfg.enc.registry k = some c := by
      rcases hkey with ⟨rfl, rfl⟩ | ⟨rfl, rfl⟩ | ⟨rfl, rfl⟩ | ⟨rfl, rfl⟩ | ⟨rfl, rfl⟩ <;> rfl
    exact exec_txkey_of_registry hreg
  case accepted =>
    rw [requestTransmit_accepted c hst hwf]
    exact ⟨frameWordOf_eq s.cfg.enc.addr c, encBusy_startTelegram c s⟩
  case other => simp only [exec, execTxkey, registryOf_eq_none hk]

end Sys2Proof.Machine
end

section
/-! PROOFS. The encoding family (30_encoding.md), the symbols: the row of a symbol emits the burst and the space of R80 to
R85. -/

namespace Sys2Proof.Machine

/-! ### The pulses, their two segment steps in one -/

theorem preSpace_preBurst (s : State) : preSpace (preBurst s) = { s with
    enc := { s.enc with carrier := .off, ph := .burst, pc := s.enc.pc + 1,
                        st := if s.enc.pc + 1 = s.cfg.enc.p then .start else s.enc.st }
    encLog := s.encLog ++ [.emit ⟨.on, bit0Width s.cfg.enc.err⟩, .emit ⟨.off, preSpaceWidth s.cfg.enc⟩] } := by
  simp [preSpace_eq, preBurst_eq]

theorem startSpace_startBurst (s : State) : startSpace (startBurst s) = { s with
    enc := { s.enc with carrier := .off, ph := .burst, sc := s.enc.sc + 1,
                        st := if s.enc.sc + 1 = s.cfg.enc.s then .data else s.enc.st,
                        bi := if s.enc.sc + 1 = s.cfg.enc.s then 0 else s.enc.bi }
    encLog := s.encLog ++
      [.emit ⟨.on, startWidth s.cfg.enc.err⟩, .emit ⟨.off, startWidth s.cfg.enc.err⟩] } := by
  simp [startSpace_eq, startBurst_eq]

/-- The burst of a frame bit does not change which bit is sent. -/
theorem currentBit_dataBurst (s : State) : currentBit (dataBurst s) = currentBit s := rfl

theorem dataSpace_dataBurst (s : State) : dataSpace (dataBurst s) = { s with
    enc := { s.enc with carrier := .off, ph := .burst, bi := s.enc.bi + 1,
                        st := if s.enc.bi = 23 then .stop else s.enc.st }
    encLog := s.encLog ++ [.emit ⟨.on, bitWidth s.cfg.enc.err (currentBit s)⟩,
      .emit ⟨.off, bitWidth s.cfg.enc.err (currentBit s)⟩] } := by
  rw [dataSpace_eq, currentBit_dataBurst]
  simp [dataBurst_eq]

/-- Settles O7: each symbol's pulse runs where the symbol is the next one of the telegram. -/
theorem symbolRowsEmitTheirTwoSegments : Obligations.SymbolRowsEmitTheirTwoSegments := by
  intro s
  refine ⟨fun hst hph hbi hbit => ?zero, fun hst hph hbi hbit => ?one, fun hst hph => ?start,
    fun hst hph htec => ?pre0, fun hst => ?stop⟩
  case zero =>
    have hcurrent : currentBit s = false := (frameBit_eq hbi).trans hbit
    refine whenSelected_next.mpr ⟨⟨hst, hph, hcurrent⟩, ?_⟩
    rw [dataSpace_dataBurst, hcurrent, hst]
    rfl
  case one =>
    have hcurrent : currentBit s = true := (frameBit_eq hbi).trans hbit
    refine whenSelected_next.mpr ⟨⟨hst, hph, hcurrent⟩, ?_⟩
    rw [dataSpace_dataBurst, hcurrent, hst]
    rfl
  case start =>
    refine whenSelected_next.mpr ⟨⟨hst, hph⟩, ?_⟩
    rw [startSpace_startBurst, hst]
    rfl
  case pre0 =>
    refine whenSelected_next.mpr ⟨⟨hst, hph⟩, ?_⟩
    rw [preSpace_preBurst, preSpaceWidth_eq (by omega), hst]
    rfl
  case stop => exact whenSelected_next.mpr ⟨hst, stopGap_eq s⟩

end Sys2Proof.Machine
end

section
/-! PROOFS. The encoding family (30_encoding.md), the decoder's labels: the rows of classes, frame words and results are
the decoder steps they label (R86, R91 to R93). -/

namespace Sys2Proof.Machine

/-! ### What a bit does to the decoder's registers -/

theorem onBit_n (b : Bool) (s : State) : (onBit b s).dec.n = s.dec.n + 1 := by
  by_cases hlast : s.dec.n + 1 = 24
  · rw [onBit_completes hlast]; rfl
  · rw [onBit_collects hlast]

theorem onBit_acc (b : Bool) (s : State) : (onBit b s).dec.acc = shiftIn s.dec.acc b := by
  by_cases hlast : s.dec.n + 1 = 24
  · rw [onBit_completes hlast]; rfl
  · rw [onBit_collects hlast]

@[simp] theorem bitMeasure_dec (s : State) : (bitMeasure s).dec = s.dec := measurePulse_dec _ s

/-- A timed-out AwaitStart read ends the attempt exactly under the policy of R13 (R174). -/
theorem onAwTimeout_done_iff {s : State} (hst : s.dec.st = .await) :
    (onAwTimeout s).dec.st = .done ↔ s.cfg.dec.awaitTimeoutEnds = true := by
  unfold onAwTimeout
  split
  · next hends => simp [hends]
  · next hgoes => simp [hgoes, hst]

/-! ### The class rows -/

/-- The row of an AwaitStart class is D.AWAIT_READ (assumption log 7). -/
theorem awaitRow_eq_dAwaitRead {r : Reading} {k : AwClass} {s t : State} (h : awaitReads r k s = true)
    (ht : awaitRead s = t) :
    whenSelected (awaitReads r k s = true) t = .next t ∧ exec .dAwaitRead s = .next t := by
  obtain ⟨hst, hguard, -⟩ := awaitRead_of_class h
  exact ⟨whenSelected_next.mpr ⟨h, rfl⟩, whenSelected_next.mpr ⟨⟨hst, hguard⟩, ht⟩⟩

/-- The row of a ReadingBits class is D.READ_BIT (assumption log 7). -/
theorem bitRow_eq_dReadBit {r : Reading} {k : RbClass} {s t : State} (h : bitReads r k s = true)
    (ht : readBitStep s = t) :
    whenSelected (bitReads r k s = true) t = .next t ∧ exec .dReadBit s = .next t :=
  have hst := (readBitStep_of_class h).1
  ⟨whenSelected_next.mpr ⟨h, rfl⟩, whenSelected_next.mpr ⟨hst, ht⟩⟩

/-- The row of an abort class reports Incomplete (R177). -/
theorem abortRow_eq_dReadBit {r : Reading} {k : RbClass} {s : State} (h : bitReads r k s = true)
    (habort : readBitStep s = abort (bitMeasure s)) :
    ∃ t, whenSelected (bitReads r k s = true) (abort (bitMeasure s)) = .next t ∧ exec .dReadBit s = .next t ∧
      t.dec.res = .incomplete :=
  have ⟨hrow, hstep⟩ := bitRow_eq_dReadBit h habort
  ⟨_, hrow, hstep, rfl⟩

/-- The row of a bit class shifts its bit in (R176). -/
theorem bitRow_shifts {r : Reading} {k : RbClass} {b : Bool} {s : State} (h : bitReads r k s = true)
    (hbit : readBitStep s = onBit b (bitMeasure s)) :
    ∃ t, whenSelected (bitReads r k s = true) (onBit b (bitMeasure s)) = .next t ∧ exec .dReadBit s = .next t ∧
      t.dec.n = s.dec.n + 1 ∧ t.dec.acc = shiftIn s.dec.acc b := by
  obtain ⟨hrow, hstep⟩ := bitRow_eq_dReadBit h hbit
  refine ⟨_, hrow, hstep, ?_, ?_⟩
  · rw [onBit_n, bitMeasure_dec]
  · rw [onBit_acc, bitMeasure_dec]

/-- Settles O16, class by class. -/
theorem classRowsAreReadSteps : Obligations.ClassRowsAreReadSteps := by
  intro s d
  refine ⟨fun hst hguard => ⟨fun hr hlow hhigh => ?awIn, fun hr hout => ?awOut, fun hr => ?awTimeout⟩,
    fun hst => ⟨fun hr => ?rbTimeout, fun hr hd => ?short, fun hr hd hd' => ?long, fun hr hlow hhigh => ?one,
      fun hr hlow hhigh => ?zero⟩⟩
  case awIn =>
    have h : awaitReads (some d) .inBand s = true :=
      awaitReads_iff.mpr ⟨hst, hguard, hr, classifyAwait_some_inBand.mpr ⟨hlow, hhigh⟩⟩
    obtain ⟨-, -, hread⟩ := awaitRead_of_class h
    obtain ⟨hrow, hstep⟩ := awaitRow_eq_dAwaitRead h hread
    exact ⟨_, hrow, hstep, by simp [onAwIn]⟩
  case awOut =>
    have h : awaitReads (some d) .outOfBand s = true :=
      awaitReads_iff.mpr ⟨hst, hguard, hr, classifyAwait_some_outOfBand.mpr hout⟩
    obtain ⟨-, -, hread⟩ := awaitRead_of_class h
    obtain ⟨hrow, hstep⟩ := awaitRow_eq_dAwaitRead h hread
    exact ⟨_, hrow, hstep, rfl⟩
  case awTimeout =>
    have h : awaitReads none .timeout s = true := awaitReads_iff.mpr ⟨hst, hguard, hr, rfl⟩
    obtain ⟨-, -, hread⟩ := awaitRead_of_class h
    obtain ⟨hrow, hstep⟩ := awaitRow_eq_dAwaitRead h hread
    refine ⟨_, hrow, hstep, ?_⟩
    rw [onAwTimeout_done_iff (by simp [hst]), awaitMeasure_cfg]
  case rbTimeout =>
    have h : bitReads none .timeout s = true := bitReads_iff.mpr ⟨hst, hr, rfl⟩
    exact abortRow_eq_dReadBit h (readBitStep_of_class h).2
  case short =>
    have h : bitReads (some d) .abortShort s = true :=
      bitReads_iff.mpr ⟨hst, hr, classifyRead_some_abortShort.mpr hd⟩
    exact abortRow_eq_dReadBit h (readBitStep_of_class h).2
  case long =>
    have h : bitReads (some d) .abortLong s = true :=
      bitReads_iff.mpr ⟨hst, hr, classifyRead_some_abortLong.mpr ⟨by omega, hd'⟩⟩
    exact abortRow_eq_dReadBit h (readBitStep_of_class h).2
  case one =>
    have h : bitReads (some d) .one s = true := bitReads_iff.mpr ⟨hst, hr, classifyRead_some_one.mpr ⟨hlow, hhigh⟩⟩
    exact bitRow_shifts h (readBitStep_of_class h).2
  case zero =>
    have h : bitReads (some d) .zero s = true := bitReads_iff.mpr ⟨hst, hr, classifyRead_some_zero.mpr ⟨hlow, hhigh⟩⟩
    exact bitRow_shifts h (readBitStep_of_class h).2

/-! ### A completed word -/

/-- The next reading completes v exactly where the decoder has 23 bits and that reading gives the 24th (R180). -/
theorem completedWord_eq_some {s : State} {v : Frame24} :
    completedWord s = some v ↔ s.dec.st = .read ∧ s.dec.n = 23 ∧
      ∃ b, readBit? s.cfg.dec.err (nextAnswer s) = some b ∧ shiftIn s.dec.acc b = v := by
  simp [completedWord, and_assoc]

/-- The step that completes a word reports its fields (R180, R181). -/
theorem readBitStep_dec_of_completedWord {s : State} {a c i : Byte} (h : completedWord s = some (packFrame a c i)) :
    (readBitStep s).dec = { s.dec with
      st := .done, n := 24, acc := packFrame a c i, res := .frame a c i (validFlag c i) } := by
  obtain ⟨-, hn, b, hb, hv⟩ := completedWord_eq_some.mp h
  rcases readBitStep_cases s with ⟨hnone, -⟩ | ⟨b', hb', hstep⟩
  · rw [hb] at hnone; cases hnone
  · obtain rfl : b = b' := Option.some.inj (hb.symm.trans hb')
    have hlast : (bitMeasure s).dec.n + 1 = 24 := by rw [bitMeasure_dec, hn]
    rw [hstep, onBit_completes hlast]
    simp [complete, hn, hv]

/-- A row of a completed word is D.READ_BIT (assumption log 8 and 9). -/
theorem exec_dReadBit_of_completedWord {s : State} {v : Frame24} (h : completedWord s = some v) :
    exec .dReadBit s = .next (readBitStep s) :=
  whenSelected_next.mpr ⟨(completedWord_state h).1, rfl⟩

theorem validFlag_eq (c i : Byte) : validFlag c i = decide (i = 255#8 - c) := by
  rw [validFlag, complement_eq_sub]

/-- Settles O8: at the encoder by the accepted TRANSMIT, at the decoder by the completed word. -/
theorem frameWordIsFormedAndCompleted : Obligations.FrameWordIsFormedAndCompleted := by
  intro c s
  refine ⟨fun hst hwf => ⟨startTelegram c s, ?formed, ?transmit, frameWordOf_eq s.cfg.enc.addr c⟩,
    fun a i b hst hn hb hv => ?completed⟩
  case formed =>
    have hformed : formedByEncoder s.cfg s.cfg.enc.addr c (255#8 - c) = true := by
      simp [formedByEncoder, complement_eq_sub]
    exact whenSelected_next.mpr ⟨⟨hst, hwf, hformed⟩, rfl⟩
  case transmit => exact congrArg Host.Outcome.next (requestTransmit_accepted c hst hwf)
  case completed =>
    have hword : completedWord s = some (packFrame a c i) := completedWord_eq_some.mpr ⟨hst, hn, b, hb, hv⟩
    refine ⟨readBitStep s, whenSelected_next.mpr ⟨hword, rfl⟩, exec_dReadBit_of_completedWord hword, ?_⟩
    rw [readBitStep_dec_of_completedWord hword, validFlag_eq, packFrame]

/-! ### The result rows -/

/-- With the budget spent, NoStart is D.NOSTART (R173). -/
theorem exec_noStart_of_spent {s : State} (hst : s.dec.st = .await) (hguard : triesGuard s = .eq) :
    exec .noStart s = .next (budgetSpent s) := by
  simp only [exec, execNoStart, hguard]
  exact whenSelected_next.mpr ⟨hst, rfl⟩

/-- With reads left, NoStart is the timed-out D.AWAIT_READ under the policy of R13 (R174). -/
theorem exec_noStart_of_timeout {s : State} (hst : s.dec.st = .await) (hguard : triesGuard s = .lt)
    (hr : nextAnswer s = none) (hends : s.cfg.dec.awaitTimeoutEnds = true) :
    exec .noStart s = .next (finish .noStart (awaitMeasure s)) := by
  simp only [exec, execNoStart, hguard]
  exact whenSelected_next.mpr ⟨⟨hst, hr, hends⟩, rfl⟩

/-- Settles O17, result by result. -/
theorem resultRowsAreReportingSteps : Obligations.ResultRowsAreReportingSteps := by
  intro s
  refine ⟨fun a c i b hst hn hb hv => ?frames, fun hst hnone => ?incomplete, fun hst hspent => ?spent,
    fun hst hguard hr hends => ?timeout, fun hbusy hwf => ?empty⟩
  case frames =>
    have hword : completedWord s = some (packFrame a c i) := completedWord_eq_some.mpr ⟨hst, hn, b, hb, hv⟩
    have hdec := readBitStep_dec_of_completedWord hword
    refine ⟨fun hi => ?_, fun hi => ?_⟩
    · have hvalid : validFlag c i = true := (validFlag_eq c i).trans (decide_eq_true hi)
      rw [hvalid] at hdec
      exact ⟨_, whenSelected_next.mpr ⟨⟨hword, hvalid⟩, rfl⟩, exec_dReadBit_of_completedWord hword, by simp [hdec]⟩
    · have hvalid : validFlag c i = false := (validFlag_eq c i).trans (decide_eq_false hi)
      rw [hvalid] at hdec
      exact ⟨_, whenSelected_next.mpr ⟨⟨hword, hvalid⟩, rfl⟩, exec_dReadBit_of_completedWord hword, by simp [hdec]⟩
  case incomplete =>
    exact ⟨abort (bitMeasure s), whenSelected_next.mpr ⟨⟨hst, hnone⟩, rfl⟩,
      whenSelected_next.mpr ⟨hst, readBitStep_no_bit hnone⟩, rfl, rfl⟩
  case spent =>
    have hguard : triesGuard s = .eq := compareBudget_eq.mpr hspent
    exact ⟨budgetSpent s, exec_noStart_of_spent hst hguard, whenSelected_next.mpr ⟨⟨hst, hguard⟩, rfl⟩, rfl, rfl⟩
  case timeout =>
    exact ⟨finish .noStart (awaitMeasure s), exec_noStart_of_timeout hst hguard hr hends,
      whenSelected_next.mpr ⟨⟨hst, hguard⟩, awaitRead_timeout hr hends⟩, rfl, rfl⟩
  case empty =>
    exact ⟨startAttempt s, whenSelected_next.mpr ⟨⟨hbusy, hwf⟩, rfl⟩,
      congrArg Host.Outcome.next (requestReceive_accepted hbusy hwf), rfl⟩

end Sys2Proof.Machine
end

section
/-! PROOFS. The protocol family (41_protocol.md): the laws of the complement (R116), and the base units of an encoder and
a decoder that interoperate (R120). -/

namespace Sys2Proof.Machine

/-! ### The complement of a byte -/

theorem complement_eq_xor (c : Byte) : complement c = c ^^^ 0xFF#8 :=
  (BitVec.xor_allOnes (x := c)).symm

@[simp] theorem complement_complement (c : Byte) : complement (complement c) = c :=
  BitVec.not_not

theorem toNat_add_toNat_complement (c : Byte) : c.toNat + (complement c).toNat = 255 := by
  rw [complement, BitVec.toNat_not]
  omega

theorem getLsbD_complement (c : Byte) {j : Nat} (hj : j < 8) : (complement c).getLsbD j = !c.getLsbD j := by
  simp [complement, hj]

/-- A position is set in exactly one of a byte and its complement, so the two popcounts share out the eight positions. -/
theorem popcount_add_popcount_complement (c : Byte) : popcount c + popcount (complement c) = 8 := by
  have hclear : (List.range 8).filter (fun j => (complement c).getLsbD j) =
      (List.range 8).filter (fun j => !c.getLsbD j) :=
    List.filter_congr fun j hj => getLsbD_complement c (List.mem_range.mp hj)
  rw [popcount, popcount, hclear, ← List.length_eq_length_filter_add, List.length_range]

/-- Settles O23, law by law. -/
theorem complementLaws : Obligations.ComplementLaws := fun c =>
  ⟨complement_eq_sub c, complement_eq_xor c, complement_complement c, toNat_add_toNat_complement c,
    popcount_add_popcount_complement c, fun i => by rw [validFlag_eq, decide_eq_true_iff]⟩

/-! ### Interoperating base units -/

/-- A start burst in its band puts the two bit bursts in theirs: the band of a start is the narrowest of the three,
relative to the nominal width (R119). -/
theorem bitBursts_inBand_of_startBurst {ee ed : Nat} (hed : 1 ≤ ed) (hlow : 5 * ed ≤ 6 * ee) (hhigh : 6 * ee ≤ 7 * ed) :
    ed ≤ 2 * ee ∧ 2 * ee ≤ 3 * ed ∧ 3 * ed < 4 * ee ∧ 4 * ee ≤ 5 * ed := by
  omega

/-- Settles O22: the start burst alone needs the condition, and the condition bounds the other bursts. -/
theorem twoBaseUnitsInteroperate : Obligations.TwoBaseUnitsInteroperate := by
  intro ee ed _ hed
  refine ⟨⟨fun ⟨_, hstart, _, _⟩ => classifyAwait_some_inBand.mp hstart, fun ⟨hlow, hhigh⟩ => ?classes⟩,
    bitBursts_inBand_of_startBurst hed, fun heq => by omega⟩
  case classes =>
    obtain ⟨hzero, hzero', hone, hone'⟩ := bitBursts_inBand_of_startBurst hed hlow hhigh
    have hpreamble : 2 * ee < 5 * ed := by omega
    exact ⟨classifyAwait_some_outOfBand.mpr (.inl hpreamble), classifyAwait_some_inBand.mpr ⟨hlow, hhigh⟩,
      classifyRead_some_zero.mpr ⟨hzero, hzero'⟩, classifyRead_some_one.mpr ⟨hone, hone'⟩⟩

end Sys2Proof.Machine
end

section
/-! PROOFS. The encoder family (42_encoder.md), the operations: what TRANSMIT and each segment step do to the whole
state (R131 to R139), and the move of an idle unit (R130, R170, R243). -/

namespace Sys2Proof.Machine

/-! ### TRANSMIT -/

/-- A well-formed encoder configuration, with the bound on TEC as R113 writes it. -/
theorem wellFormedEnc_iff_tec_le {k : EncConfig} :
    wellFormedEnc k = true ↔ 1 ≤ k.err ∧ 1 ≤ k.s ∧ 1 ≤ k.r ∧ k.tec ≤ 2 * k.err - 1 := by
  rw [wellFormedEnc_iff]
  omega

/-- A busy encoder discards a command (R132). -/
theorem requestTransmit_busy {s : State} (c : Byte) (hst : s.enc.st ≠ .idle) :
    requestTransmit c s = raiseFault .overlappingTransmit s := by
  simp [requestTransmit, encBusy, hst]

/-- An idle encoder of an ill-formed configuration records it (R131). -/
theorem requestTransmit_illFormed {s : State} (c : Byte) (hst : s.enc.st = .idle)
    (hwf : ¬ wellFormedEnc s.cfg.enc = true) : requestTransmit c s = raiseFault .illFormedConfig s := by
  simp [requestTransmit, encBusy, hst, hwf]

/-- An accepted command, its record updates written out. -/
theorem startTelegram_eq (c : Byte) (s : State) : startTelegram c s = { s with
    enc := { st := if 0 < s.cfg.enc.p then .pre else .start, ph := .burst, pc := 0, sc := 0, rc := 0, bi := 0,
             fw := s.cfg.enc.addr ++ c ++ (255#8 - c), carrier := s.enc.carrier }
    encLog := s.encLog ++ [.transmit c] } := by
  rw [← frameWordOf_eq]
  rfl

/-- Settles O1: the configuration decides between the accepted and the recorded command. -/
theorem transmitFromIdle : Obligations.TransmitFromIdle := by
  intro c s hst
  rw [← wellFormedEnc_iff_tec_le]
  refine ⟨fun hwf => ⟨startTelegram c s, ?accepted, encBusy_startTelegram c s, startTelegram_eq c s⟩,
    fun hwf => ?recorded⟩
  case accepted => exact congrArg Host.Outcome.next (requestTransmit_accepted c hst hwf)
  case recorded => exact congrArg Host.Outcome.next (requestTransmit_illFormed c hst hwf)

/-- Settles O2. -/
theorem transmitWhileBusyIsDiscarded : Obligations.TransmitWhileBusyIsDiscarded :=
  fun c _ hst => congrArg Host.Outcome.next (requestTransmit_busy c hst)

/-! ### The segment steps -/

/-- Settles O3, from the two steps' record updates and the width of a preamble space. -/
theorem preamblePulseSteps : Obligations.PreamblePulseSteps := by
  intro s hst
  refine ⟨fun hph => whenSelected_next.mpr ⟨⟨hst, hph⟩, preBurst_eq s⟩,
    fun hph htec => whenSelected_next.mpr ⟨⟨hst, hph⟩, ?_⟩⟩
  rw [preSpace_eq, preSpaceWidth_eq (by omega), hst]

/-- Settles O4, from the two steps' record updates. -/
theorem startPulseSteps : Obligations.StartPulseSteps := by
  intro s hst
  refine ⟨fun hph => whenSelected_next.mpr ⟨⟨hst, hph⟩, startBurst_eq s⟩,
    fun hph => whenSelected_next.mpr ⟨⟨hst, hph⟩, ?_⟩⟩
  rw [startSpace_eq, hst]
  rfl

/-- The width of a frame bit as a multiple of the base unit (R87, R110). -/
theorem bitWidth_eq_mul (e : Nat) (b : Bool) : bitWidth e b = (if b then 4 else 2) * e := by
  cases b <;> rfl

/-- The bit E.DATA_BURST and E.DATA_SPACE send, within the frame (R137, R138). -/
theorem currentBit_eq {s : State} (hbi : s.enc.bi < 24) : currentBit s = s.enc.fw.getLsbD (23 - s.enc.bi) :=
  frameBit_eq hbi

/-- Settles O5, from the two steps' record updates and the bit they send. -/
theorem dataBitSteps : Obligations.DataBitSteps := by
  intro s hst hbi
  rw [← currentBit_eq hbi, ← bitWidth_eq_mul]
  refine ⟨fun hph => whenSelected_next.mpr ⟨⟨hst, hph⟩, dataBurst_eq s⟩,
    fun hph => whenSelected_next.mpr ⟨⟨hst, hph⟩, ?_⟩⟩
  have hlast : s.enc.bi + 1 = 24 ↔ s.enc.bi = 23 := by omega
  simp only [dataSpace_eq, hlast, hst]

/-- Settles O6: the repetition counter decides between the end of the telegram and the next repetition. -/
theorem stopGapEndsARepetition : Obligations.StopGapEndsARepetition := by
  intro s hst
  refine ⟨fun hlast => ⟨stopGap s, whenSelected_next.mpr ⟨hst, rfl⟩, ?idle, ?last⟩,
    fun hmore => whenSelected_next.mpr ⟨hst, ?more⟩⟩
  case idle => simp [encBusy, stopGap_eq, hlast]
  case last => simp [stopGap_eq, hlast, minStopGap]
  case more => simp [stopGap_eq, hmore, minStopGap]

/-! ### The moves of the units -/

/-- What a move of the encoder does: the operation its registers select, and nothing in an idle encoder (R95, R130). -/
def encoderMove (s : State) : State :=
  match s.enc.st, s.enc.ph with
  | .idle, _ => s
  | .pre, .burst => preBurst s
  | .pre, .space => preSpace s
  | .start, .burst => startBurst s
  | .start, .space => startSpace s
  | .data, .burst => dataBurst s
  | .data, .space => dataSpace s
  | .stop, _ => stopGap s

/-- Everything a move of the encoder can do. -/
theorem encoderMove_cases (s : State) :
    (s.enc.st = .idle ∧ encoderMove s = s) ∨
    (s.enc.st = .pre ∧ s.enc.ph = .burst ∧ encoderMove s = preBurst s) ∨
    (s.enc.st = .pre ∧ s.enc.ph = .space ∧ encoderMove s = preSpace s) ∨
    (s.enc.st = .start ∧ s.enc.ph = .burst ∧ encoderMove s = startBurst s) ∨
    (s.enc.st = .start ∧ s.enc.ph = .space ∧ encoderMove s = startSpace s) ∨
    (s.enc.st = .data ∧ s.enc.ph = .burst ∧ encoderMove s = dataBurst s) ∨
    (s.enc.st = .data ∧ s.enc.ph = .space ∧ encoderMove s = dataSpace s) ∨
    (s.enc.st = .stop ∧ encoderMove s = stopGap s) := by
  unfold encoderMove
  cases s.enc.st <;> cases s.enc.ph <;> simp

/-- A step whose code selects no operation takes the event and leaves the block as it is (R130, R170, R243). -/
theorem step_of_noStep {s : State} {ev : Event} {evs : List Event} (hev : s.events = ev :: evs)
    (hcode : decode s.cfg (eventCode s ev) = .rejected .noStep) : step s = .next { s with events := evs } := by
  have hfetched : fetched s = .rejected .noStep := by rw [fetched, fetchCode, nextEvent_cons hev, hcode]
  simp only [step, hfetched, onRejected, dropEvent_cons hev]

/-- The phase bit of an IDLE word is ignored (R95). -/
theorem decodeEncSel_idle (ph : Phase) : decodeEncSel (encSelector .idle ph) none = .rejected .noStep := by
  cases ph <;> rfl

/-- A decoder at rest has no step without a request (R96, R170). -/
theorem decodeDecSel_rest {st : DecSt} (tries : Ordering) (h : st = .idle ∨ st = .done) :
    decodeDecSel (decStCode st) false tries = .rejected .noStep := by
  rcases h with rfl | rfl <;> rfl

/-- A move of an idle encoder takes the event and leaves the block as it is (R130, R243). -/
theorem step_of_idle_encoder {s : State} {evs : List Event} (hev : s.events = .move .encoder :: evs)
    (hst : s.enc.st = .idle) : step s = .next { s with events := evs } := by
  apply step_of_noStep hev
  rw [eventCode, hst]
  exact decodeEncSel_idle s.enc.ph

/-- In every state of the block, a listed move of the encoder does what encoderMove says. -/
theorem step_encoderMove {s : State} {evs : List Event} (hev : s.events = .move .encoder :: evs) :
    step s = .next (encoderMove { s with events := evs }) := by
  rcases encoderMove_cases { s with events := evs } with ⟨hst, h⟩ | ⟨hst, hph, h⟩ | ⟨hst, hph, h⟩ | ⟨hst, hph, h⟩ |
    ⟨hst, hph, h⟩ | ⟨hst, hph, h⟩ | ⟨hst, hph, h⟩ | ⟨hst, h⟩ <;> rw [h]
  case inl => exact step_of_idle_encoder hev hst
  case inr.inr.inr.inr.inr.inr.inr =>
    rw [step_of_encoder_move hev hst rfl (decodeEncSel_stop _)]
    exact whenSelected_next.mpr ⟨hst, rfl⟩
  all_goals
    rw [step_of_encoder_move hev hst hph rfl]
    exact whenSelected_next.mpr ⟨⟨hst, hph⟩, rfl⟩

/-- Settles O32: the selector word of a unit at rest selects no operation. -/
theorem anIdleUnitTakesNoStep : Obligations.AnIdleUnitTakesNoStep :=
  fun _ _ => ⟨step_of_idle_encoder, fun hev hst => step_of_noStep hev (decodeDecSel_rest _ hst)⟩

end Sys2Proof.Machine
end

section
/-! PROOFS. The encoder family (42_encoder.md), the telegram: the segments a good encoder still owes, which each of its
moves shortens by the one it emits (R140, R141, R223). -/

namespace Sys2Proof.Machine

/-! ### The segments still to come -/

/-- The segments of a repetition, from the frame word; `repSegs k c` is that of the frame word of c (`repSegs_eq`). -/
def repetition (k : EncConfig) (fw : Frame24) : List Segment := startSegs k ++ bitSegs k fw ++ symSegs k .stop

theorem repSegs_eq (k : EncConfig) (c : Byte) : repSegs k c = repetition k (frameWordOf k.addr c) := rfl

/-- The segments of the frame bits from position i on. -/
def bitSegsFrom (k : EncConfig) (fw : Frame24) (i : Nat) : List Segment :=
  ((List.range 24).drop i).flatMap (fun j => symSegs k (bitSym (frameBit fw j)))

theorem bitSegsFrom_zero (k : EncConfig) (fw : Frame24) : bitSegsFrom k fw 0 = bitSegs k fw := rfl

theorem bitSegsFrom_end (k : EncConfig) (fw : Frame24) : bitSegsFrom k fw 24 = [] := rfl

/-- The positions from i on begin with i. -/
theorem drop_range_of_lt {i n : Nat} (hi : i < n) : (List.range n).drop i = i :: (List.range n).drop (i + 1) := by
  rw [List.drop_eq_getElem_cons (by simpa using hi), List.getElem_range]

/-- The pulse of bit i comes before those of the bits after it. -/
theorem bitSegsFrom_of_lt (k : EncConfig) (fw : Frame24) {i : Nat} (hi : i < 24) :
    bitSegsFrom k fw i =
      pulse (bitWidth k.err (frameBit fw i)) (bitWidth k.err (frameBit fw i)) ++ bitSegsFrom k fw (i + 1) := by
  rw [bitSegsFrom, drop_range_of_lt hi, List.flatMap_cons, symSegs_bitSym, bitSegsFrom]

/-- What is left of a list of pulses: all of it before a burst, and all but that burst before its space. -/
def fromPhase : Phase → List Segment → List Segment
  | .burst, l => l
  | .space, l => l.tail

/-- The segments a telegram in progress has still to emit. -/
def segmentsLeft (k : EncConfig) (e : EncState) : List Segment :=
  match e.st with
  | .idle => []
  | .pre => fromPhase e.ph (repeated (k.p - e.pc) (symSegs k .pre0)) ++ repeated k.r (repetition k e.fw)
  | .start =>
    fromPhase e.ph (repeated (k.s - e.sc) (symSegs k .start)) ++ bitSegs k e.fw ++ symSegs k .stop ++
      repeated (k.r - (e.rc + 1)) (repetition k e.fw)
  | .data =>
    fromPhase e.ph (bitSegsFrom k e.fw e.bi) ++ symSegs k .stop ++ repeated (k.r - (e.rc + 1)) (repetition k e.fw)
  | .stop => symSegs k .stop ++ repeated (k.r - (e.rc + 1)) (repetition k e.fw)

theorem segmentsLeft_idle {k : EncConfig} {e : EncState} (hst : e.st = .idle) : segmentsLeft k e = [] := by
  simp [segmentsLeft, hst]

theorem segmentsLeft_pre {k : EncConfig} {e : EncState} (hst : e.st = .pre) : segmentsLeft k e =
    fromPhase e.ph (repeated (k.p - e.pc) (symSegs k .pre0)) ++ repeated k.r (repetition k e.fw) := by
  simp [segmentsLeft, hst]

theorem segmentsLeft_start {k : EncConfig} {e : EncState} (hst : e.st = .start) : segmentsLeft k e =
    fromPhase e.ph (repeated (k.s - e.sc) (symSegs k .start)) ++ bitSegs k e.fw ++ symSegs k .stop ++
      repeated (k.r - (e.rc + 1)) (repetition k e.fw) := by
  simp [segmentsLeft, hst]

theorem segmentsLeft_data {k : EncConfig} {e : EncState} (hst : e.st = .data) : segmentsLeft k e =
    fromPhase e.ph (bitSegsFrom k e.fw e.bi) ++ symSegs k .stop ++
      repeated (k.r - (e.rc + 1)) (repetition k e.fw) := by
  simp [segmentsLeft, hst]

theorem segmentsLeft_stop {k : EncConfig} {e : EncState} (hst : e.st = .stop) : segmentsLeft k e =
    symSegs k .stop ++ repeated (k.r - (e.rc + 1)) (repetition k e.fw) := by
  simp [segmentsLeft, hst]

/-- A first entry among those counted from i up to n. -/
theorem repeated_sub {α : Type} {n i : Nat} (l : List α) (hi : i < n) :
    repeated (n - i) l = l ++ repeated (n - (i + 1)) l := by
  rw [show n - i = n - (i + 1) + 1 by omega, repeated]

/-- At the start of a repetition, all repetitions from it on are left. -/
theorem segmentsLeft_repetition {k : EncConfig} {e : EncState} (hst : e.st = .start) (hph : e.ph = .burst)
    (hsc : e.sc = 0) (hrc : e.rc < k.r) : segmentsLeft k e = repeated (k.r - e.rc) (repetition k e.fw) := by
  rw [segmentsLeft_start hst, hph, hsc, repeated_sub _ hrc]
  rfl

/-- An accepted command owes the whole telegram (R141). -/
theorem segmentsLeft_startTelegram (c : Byte) {s : State} (hr : 1 ≤ s.cfg.enc.r) :
    segmentsLeft s.cfg.enc (startTelegram c s).enc = telegram s.cfg.enc c := by
  rw [startTelegram_enc]
  by_cases hp : 0 < s.cfg.enc.p
  · exact segmentsLeft_pre (if_pos hp)
  · refine (segmentsLeft_repetition (if_neg hp) rfl rfl (by exact hr)).trans ?_
    rw [telegram, repSegs_eq, preSegs, Nat.eq_zero_of_not_pos hp]
    rfl

/-! ### A move emits the first of them -/

/-- t is s after moves of the encoder that emit the segments l: the encoder stays good, l comes off the segments still
to come, and nothing but the encoder's registers and record is touched. -/
structure Emits (s : State) (l : List Segment) (t : State) : Prop where
  inv : EncInv t
  left : segmentsLeft s.cfg.enc s.enc = l ++ segmentsLeft s.cfg.enc t.enc
  log : t.encLog = s.encLog ++ l.map .emit
  work : EncoderWork s t

theorem Emits.refl {s : State} (h : EncInv s) : Emits s [] s :=
  ⟨h, rfl, (List.append_nil _).symm, rfl, rfl, rfl⟩

theorem Emits.trans {s t u : State} {l m : List Segment} (h₁ : Emits s l t) (h₂ : Emits t m u) :
    Emits s (l ++ m) u where
  inv := h₂.inv
  left := by rw [h₁.left, ← h₁.work.cfg, h₂.left, List.append_assoc]
  log := by rw [h₂.log, h₁.log, List.map_append, List.append_assoc]
  work := ⟨h₂.work.cfg.trans h₁.work.cfg, h₂.work.dec.trans h₁.work.dec, h₂.work.faults.trans h₁.work.faults⟩

theorem emits_preBurst {s : State} (h : EncInv s) (hst : s.enc.st = .pre) (hph : s.enc.ph = .burst) :
    Emits s [⟨.on, bit0Width s.cfg.enc.err⟩] (preBurst s) := by
  obtain ⟨-, -, hcounters, -⟩ := id h
  obtain ⟨hpc, -⟩ := (countersOk_pre hst).mp hcounters
  refine ⟨encInv_preBurst h hst, ?_, rfl, rfl, rfl, rfl⟩
  rw [segmentsLeft_pre hst, segmentsLeft_pre (e := (preBurst s).enc) hst]
  simp only [preBurst_eq, hph, repeated_sub _ hpc]
  rfl

theorem emits_preSpace {s : State} (h : EncInv s) (hst : s.enc.st = .pre) (hph : s.enc.ph = .space) :
    Emits s [⟨.off, preSpaceWidth s.cfg.enc⟩] (preSpace s) := by
  obtain ⟨-, -, hcounters, hrun⟩ := id h
  obtain ⟨hpc, hsc, hrc, -⟩ := (countersOk_pre hst).mp hcounters
  obtain ⟨-, -, hr, -⟩ := wellFormedEnc_iff.mp (hrun (by simp [hst])).1
  refine ⟨encInv_preSpace h hst, ?_, rfl, rfl, rfl, rfl⟩
  rw [segmentsLeft_pre hst, hph, repeated_sub _ hpc]
  by_cases hlast : s.enc.pc + 1 = s.cfg.enc.p
  · have hrc₀ : (preSpace s).enc.rc = 0 := hrc
    rw [segmentsLeft_repetition (e := (preSpace s).enc) (if_pos hlast) rfl hsc (hrc.trans_lt hr), hrc₀, hlast,
      Nat.sub_self]
    rfl
  · rw [segmentsLeft_pre (e := (preSpace s).enc) ((if_neg hlast).trans hst)]
    rfl

theorem emits_startBurst {s : State} (h : EncInv s) (hst : s.enc.st = .start) (hph : s.enc.ph = .burst) :
    Emits s [⟨.on, startWidth s.cfg.enc.err⟩] (startBurst s) := by
  obtain ⟨-, -, hcounters, -⟩ := id h
  obtain ⟨-, hsc, -⟩ := (countersOk_start hst).mp hcounters
  refine ⟨encInv_startBurst h hst, ?_, rfl, rfl, rfl, rfl⟩
  rw [segmentsLeft_start hst, segmentsLeft_start (e := (startBurst s).enc) hst]
  simp only [startBurst_eq, hph, repeated_sub _ hsc]
  rfl

theorem emits_startSpace {s : State} (h : EncInv s) (hst : s.enc.st = .start) (hph : s.enc.ph = .space) :
    Emits s [⟨.off, startWidth s.cfg.enc.err⟩] (startSpace s) := by
  obtain ⟨-, -, hcounters, -⟩ := id h
  obtain ⟨-, hsc, -⟩ := (countersOk_start hst).mp hcounters
  refine ⟨encInv_startSpace h hst, ?_, rfl, rfl, rfl, rfl⟩
  rw [segmentsLeft_start hst, hph, repeated_sub _ hsc]
  by_cases hlast : s.enc.sc + 1 = s.cfg.enc.s
  · have hbi : (startSpace s).enc.bi = 0 := if_pos hlast
    rw [segmentsLeft_data (e := (startSpace s).enc) (if_pos hlast), hbi, hlast, Nat.sub_self, bitSegsFrom_zero]
    rfl
  · rw [segmentsLeft_start (e := (startSpace s).enc) ((if_neg hlast).trans hst)]
    rfl

theorem emits_dataBurst {s : State} (h : EncInv s) (hst : s.enc.st = .data) (hph : s.enc.ph = .burst) :
    Emits s [⟨.on, bitWidth s.cfg.enc.err (currentBit s)⟩] (dataBurst s) := by
  obtain ⟨-, -, hcounters, -⟩ := id h
  obtain ⟨-, -, -, hbi⟩ := (countersOk_data hst).mp hcounters
  refine ⟨encInv_dataBurst h hst, ?_, rfl, rfl, rfl, rfl⟩
  rw [segmentsLeft_data hst, segmentsLeft_data (e := (dataBurst s).enc) hst]
  simp only [dataBurst_eq, hph, bitSegsFrom_of_lt _ _ hbi]
  rfl

theorem emits_dataSpace {s : State} (h : EncInv s) (hst : s.enc.st = .data) (hph : s.enc.ph = .space) :
    Emits s [⟨.off, bitWidth s.cfg.enc.err (currentBit s)⟩] (dataSpace s) := by
  obtain ⟨-, -, hcounters, -⟩ := id h
  obtain ⟨-, -, -, hbi⟩ := (countersOk_data hst).mp hcounters
  refine ⟨encInv_dataSpace h hst, ?_, rfl, rfl, rfl, rfl⟩
  rw [segmentsLeft_data hst, hph, bitSegsFrom_of_lt _ _ hbi]
  by_cases hlast : s.enc.bi + 1 = 24
  · rw [segmentsLeft_stop (e := (dataSpace s).enc) (if_pos hlast), hlast, bitSegsFrom_end]
    rfl
  · rw [segmentsLeft_data (e := (dataSpace s).enc) ((if_neg hlast).trans hst)]
    rfl

theorem emits_stopGap {s : State} (h : EncInv s) (hst : s.enc.st = .stop) :
    Emits s [⟨.off, minStopGap s.cfg.enc.err⟩] (stopGap s) := by
  obtain ⟨hcarrier, -, hcounters, -⟩ := id h
  obtain ⟨hph, -⟩ := (carrierOk_stop hst).mp hcarrier
  obtain ⟨-, -, hrc, -⟩ := (countersOk_stop hst).mp hcounters
  refine ⟨encInv_stopGap h hst, ?_, rfl, rfl, rfl, rfl⟩
  rw [segmentsLeft_stop hst]
  by_cases hlast : s.enc.rc + 1 = s.cfg.enc.r
  · rw [segmentsLeft_idle (e := (stopGap s).enc) (if_pos hlast), hlast, Nat.sub_self]
    rfl
  · rw [segmentsLeft_repetition (e := (stopGap s).enc) (if_neg hlast) hph (if_neg hlast) (lt_of_le_of_ne hrc hlast)]
    rfl

/-- A move of a good busy encoder emits one segment, the first of those still to come. -/
theorem encoderMove_emits {s : State} (h : EncInv s) (hbusy : s.enc.st ≠ .idle) :
    ∃ g, Emits s [g] (encoderMove s) := by
  rcases encoderMove_cases s with ⟨hst, ht⟩ | ⟨hst, hph, ht⟩ | ⟨hst, hph, ht⟩ | ⟨hst, hph, ht⟩ | ⟨hst, hph, ht⟩ |
    ⟨hst, hph, ht⟩ | ⟨hst, hph, ht⟩ | ⟨hst, ht⟩ <;> rw [ht]
  · exact absurd hst hbusy
  · exact ⟨_, emits_preBurst h hst hph⟩
  · exact ⟨_, emits_preSpace h hst hph⟩
  · exact ⟨_, emits_startBurst h hst hph⟩
  · exact ⟨_, emits_startSpace h hst hph⟩
  · exact ⟨_, emits_dataBurst h hst hph⟩
  · exact ⟨_, emits_dataSpace h hst hph⟩
  · exact ⟨_, emits_stopGap h hst⟩

/-- A good encoder is idle exactly when it owes no segment. -/
theorem segmentsLeft_eq_nil_iff {s : State} (h : EncInv s) : segmentsLeft s.cfg.enc s.enc = [] ↔ s.enc.st = .idle := by
  refine ⟨fun hnil => ?_, segmentsLeft_idle⟩
  by_contra hbusy
  obtain ⟨g, hg⟩ := encoderMove_emits h hbusy
  exact List.cons_ne_nil _ _ (hg.left.symm.trans hnil)

/-- After the segments l the encoder is idle exactly when nothing is left. -/
theorem Emits.left_eq_nil_iff {s t : State} {l : List Segment} (h : Emits s l t) :
    segmentsLeft s.cfg.enc t.enc = [] ↔ t.enc.st = .idle := by
  rw [← h.work.cfg]
  exact segmentsLeft_eq_nil_iff h.inv

/-- As many moves as there are segments in a beginning of those still to come emit that beginning. -/
theorem encoderMove_iterate_emits {s : State} (h : EncInv s) {l r : List Segment}
    (hleft : segmentsLeft s.cfg.enc s.enc = l ++ r) : Emits s l (encoderMove^[l.length] s) := by
  induction l generalizing s with
  | nil => exact .refl h
  | cons g l ih =>
    have hbusy : s.enc.st ≠ .idle := by
      rw [ne_eq, ← segmentsLeft_eq_nil_iff h, hleft]
      exact List.cons_ne_nil _ _
    obtain ⟨g', hg'⟩ := encoderMove_emits h hbusy
    obtain ⟨rfl, hrest⟩ := List.cons.inj (hleft.symm.trans hg'.left)
    exact hg'.trans (ih hg'.inv (hg'.work.cfg ▸ hrest.symm))

/-- As many moves as there are segments still to come emit them all, and leave the encoder idle (R140). -/
theorem encoderMove_iterate_idle {s : State} (h : EncInv s) :
    let l := segmentsLeft s.cfg.enc s.enc
    Emits s l (encoderMove^[l.length] s) ∧ (encoderMove^[l.length] s).enc.st = .idle := by
  have hemits := encoderMove_iterate_emits h (List.append_nil _).symm
  exact ⟨hemits, hemits.left_eq_nil_iff.mp (List.self_eq_append_right.mp hemits.left)⟩

/-- Fewer moves leave the encoder busy. -/
theorem encoderMove_iterate_busy {s : State} (h : EncInv s) {j : Nat} (hj : j < (segmentsLeft s.cfg.enc s.enc).length) :
    (encoderMove^[j] s).enc.st ≠ .idle := by
  have hemits := encoderMove_iterate_emits h (List.take_append_drop j _).symm
  rw [List.length_take_of_le hj.le] at hemits
  rw [ne_eq, ← hemits.left_eq_nil_iff]
  intro hnil
  have hlength := congrArg List.length hemits.left
  rw [hnil, List.append_nil, List.length_take_of_le hj.le] at hlength
  omega

/-! ### The moves in the machine -/

/-- A move of the encoder neither reads nor writes the events still to come. -/
theorem encoderMove_withEvents (s : State) (evs : List Event) :
    encoderMove { s with events := evs } = { encoderMove s with events := evs } := by
  simp only [encoderMove]
  split <;> rfl

/-- Listed moves of the encoder are so many iterations of its move. -/
theorem run_encoderMoves (n : Nat) (s : State) (evs : List Event) :
    run n { s with events := List.replicate n (.move .encoder) ++ evs } =
      .next { encoderMove^[n] s with events := evs } := by
  induction n generalizing s with
  | zero => rfl
  | succ n ih =>
    have hstep := (step_encoderMove (s := { s with events := List.replicate (n + 1) _ ++ evs }) rfl).trans
      (congrArg Host.Outcome.next (encoderMove_withEvents s _))
    rw [run_succ n hstep, Function.iterate_succ_apply]
    exact ih (encoderMove s)

/-! ### IDLE is always reached -/

/-- A repetition in progress owes no more than the whole of it. -/
theorem repetitions_le {r rc d n : Nat} (hrc : rc < r) (hn : n ≤ d) : n + (r - (rc + 1)) * d ≤ r * d := by
  calc n + (r - (rc + 1)) * d ≤ d + (r - (rc + 1)) * d := Nat.add_le_add_right hn _
    _ = (r - (rc + 1) + 1) * d := by rw [Nat.succ_mul, Nat.add_comm]
    _ ≤ r * d := Nat.mul_le_mul_right d (by omega)

theorem length_fromPhase_le (ph : Phase) (l : List Segment) : (fromPhase ph l).length ≤ l.length := by
  cases ph <;> simp [fromPhase]

/-- The stop gap is the one symbol without a burst (R80, R85). -/
theorem length_symSegs (k : EncConfig) (y : Sym) : (symSegs k y).length = if y = .stop then 1 else 2 := by
  cases y <;> rfl

/-- The pulses left of n equal ones, in either phase of the first. -/
theorem length_fromPhase_repeated_le (ph : Phase) (k : EncConfig) {y : Sym} (hy : y ≠ .stop) (n : Nat) :
    (fromPhase ph (repeated n (symSegs k y))).length ≤ n * 2 := by
  have h := length_fromPhase_le ph (repeated n (symSegs k y))
  rwa [length_repeated, length_symSegs, if_neg hy] at h

theorem length_fromPhase_bitSegsFrom_le (ph : Phase) (k : EncConfig) (fw : Frame24) (i : Nat) :
    (fromPhase ph (bitSegsFrom k fw i)).length ≤ 48 := by
  refine (length_fromPhase_le ph _).trans ?_
  rw [← length_bitSegs k fw, bitSegs, bitSegsFrom]
  exact ((List.drop_sublist i _).flatMap _).length_le

theorem length_repetition (k : EncConfig) (fw : Frame24) : (repetition k fw).length = 2 * k.s + 49 := by
  rw [repetition, List.length_append, List.length_append, length_startSegs, length_bitSegs, length_symSegs, if_pos rfl]
  omega

/-- A good encoder owes no more than a telegram (R223). -/
theorem length_segmentsLeft_le {s : State} (h : EncInv s) :
    (segmentsLeft s.cfg.enc s.enc).length ≤ 2 * s.cfg.enc.p + s.cfg.enc.r * (2 * s.cfg.enc.s + 49) := by
  obtain ⟨-, -, hcounters, -⟩ := h
  have hstop : (symSegs s.cfg.enc .stop).length = 1 := length_symSegs _ _
  cases hst : s.enc.st with
  | idle => simp [segmentsLeft_idle hst]
  | pre =>
    have hpulses := length_fromPhase_repeated_le s.enc.ph s.cfg.enc (y := .pre0) (by simp) (s.cfg.enc.p - s.enc.pc)
    rw [segmentsLeft_pre hst, List.length_append, length_repeated, length_repetition]
    omega
  | start =>
    obtain ⟨-, -, hrc⟩ := (countersOk_start hst).mp hcounters
    have hpulses := length_fromPhase_repeated_le s.enc.ph s.cfg.enc (y := .start) (by simp) (s.cfg.enc.s - s.enc.sc)
    simp only [segmentsLeft_start hst, List.length_append, length_repeated, length_repetition, length_bitSegs, hstop]
    exact (repetitions_le hrc (by omega)).trans (Nat.le_add_left _ _)
  | data =>
    obtain ⟨-, -, hrc, -⟩ := (countersOk_data hst).mp hcounters
    have hpulses := length_fromPhase_bitSegsFrom_le s.enc.ph s.cfg.enc s.enc.fw s.enc.bi
    simp only [segmentsLeft_data hst, List.length_append, length_repeated, length_repetition, hstop]
    exact (repetitions_le hrc (by omega)).trans (Nat.le_add_left _ _)
  | stop =>
    obtain ⟨-, -, hrc, -⟩ := (countersOk_stop hst).mp hcounters
    simp only [segmentsLeft_stop hst, List.length_append, length_repeated, length_repetition, hstop]
    exact (repetitions_le hrc (by omega)).trans (Nat.le_add_left _ _)

/-- Settles O47: a good encoder owes at most a telegram, and a move for each segment owed leaves it idle. -/
theorem theEncoderAlwaysReachesIdle : Obligations.TheEncoderAlwaysReachesIdle := fun s h =>
  ⟨_, _, length_segmentsLeft_le h, run_encoderMoves _ s s.events, (encoderMove_iterate_idle h).2⟩

/-! ### A telegram from TRANSMIT on -/

/-- s with the encoder registers of a reset, as a good idle encoder has them. -/
def quietEncoder (s : State) : State := { s with enc := EncState.reset }

theorem encInv_quietEncoder (s : State) : EncInv (quietEncoder s) :=
  ⟨(carrierOk_idle rfl).mpr rfl, ⟨Nat.zero_le _, Nat.zero_le _, Nat.zero_le _, Nat.zero_le _⟩, countersOk_idle rfl,
    fun hbusy => absurd rfl hbusy⟩

/-- A telegram from a quiet encoder is good from its first state on. -/
theorem encInv_startTelegram_quietEncoder (c : Byte) {s : State} (hwf : wellFormedEnc s.cfg.enc = true) :
    EncInv (startTelegram c (quietEncoder s)) :=
  encInv_startTelegram c (encInv_quietEncoder s) rfl hwf

/-- The first move of a telegram is a burst, which writes the one register TRANSMIT leaves, the carrier: what the
registers were before TRANSMIT no longer shows (R131, R142). -/
theorem encoderMove_startTelegram (c : Byte) (s : State) :
    encoderMove (startTelegram c s) = encoderMove (startTelegram c (quietEncoder s)) := by
  by_cases hp : 0 < s.cfg.enc.p <;> simp [encoderMove, startTelegram, quietEncoder, preBurst_eq, startBurst_eq, hp]

theorem encoderMove_iterate_startTelegram (c : Byte) (s : State) {n : Nat} (hn : 0 < n) :
    encoderMove^[n] (startTelegram c s) = encoderMove^[n] (startTelegram c (quietEncoder s)) := by
  obtain ⟨m, rfl⟩ := Nat.exists_eq_add_of_lt hn
  rw [Nat.zero_add, Function.iterate_succ_apply, encoderMove_startTelegram, Function.iterate_succ_apply]

/-- The number of segments of a telegram (R90). -/
theorem length_telegram (k : EncConfig) (c : Byte) : (telegram k c).length = telegramLength k :=
  telegramHasItsNumberOfSegments k c

/-- A telegram has a segment. -/
theorem telegramLength_pos {k : EncConfig} (hwf : wellFormedEnc k = true) : 0 < telegramLength k := by
  obtain ⟨-, -, hr, -⟩ := wellFormedEnc_iff.mp hwf
  have : 0 < k.r * (2 * k.s + 49) := Nat.mul_pos hr (Nat.succ_pos _)
  rw [telegramLength]
  omega

theorem segmentsLeft_accepted (c : Byte) {s : State} (hwf : wellFormedEnc s.cfg.enc = true) :
    segmentsLeft (quietEncoder s).cfg.enc (startTelegram c (quietEncoder s)).enc = telegram s.cfg.enc c := by
  obtain ⟨-, -, hr, -⟩ := wellFormedEnc_iff.mp hwf
  exact segmentsLeft_startTelegram (s := quietEncoder s) c hr

/-- After an accepted command, a move for each segment of its telegram emits the telegram and leaves the encoder idle
(R140, R141). -/
theorem telegram_emitted (c : Byte) {s : State} (hwf : wellFormedEnc s.cfg.enc = true) :
    let t := encoderMove^[telegramLength s.cfg.enc] (startTelegram c s)
    EncInv t ∧ t.enc.st = .idle ∧ EncoderWork s t ∧
      t.encLog = s.encLog ++ .transmit c :: (telegram s.cfg.enc c).map .emit := by
  obtain ⟨hemits, hidle⟩ := encoderMove_iterate_idle (encInv_startTelegram_quietEncoder c hwf)
  rw [startTelegram_cfg] at hemits hidle
  rw [segmentsLeft_accepted c hwf, length_telegram,
    ← encoderMove_iterate_startTelegram c s (telegramLength_pos hwf)] at hemits hidle
  refine ⟨hemits.inv, hidle, ⟨hemits.work.cfg, hemits.work.dec, hemits.work.faults⟩, hemits.log.trans ?_⟩
  simp [quietEncoder]

/-- Before the last segment the encoder is busy. -/
theorem busy_during_telegram (c : Byte) {s : State} (hwf : wellFormedEnc s.cfg.enc = true) {j : Nat}
    (hj : j < telegramLength s.cfg.enc) : (encoderMove^[j] (startTelegram c s)).enc.st ≠ .idle := by
  cases j with
  | zero => exact of_decide_eq_true (encBusy_startTelegram c s)
  | succ j =>
    rw [encoderMove_iterate_startTelegram c s (Nat.succ_pos j)]
    apply encoderMove_iterate_busy (encInv_startTelegram_quietEncoder c hwf)
    rw [startTelegram_cfg, segmentsLeft_accepted c hwf, length_telegram]
    exact hj

/-- A listed transmit(c) runs TRANSMIT (R95). -/
theorem step_of_transmit_request {s : State} {c : Byte} {evs : List Event}
    (hev : s.events = .move (.host (.transmit c)) :: evs) : step s = exec (.transmit c) { s with events := evs } :=
  step_of_listed_event hev (decodeEncSel_request s.enc.st s.enc.ph c)

/-- A listed transmit(c), and then n moves of the encoder, in the machine. -/
theorem run_transmit (c : Byte) {s : State} (hst : s.enc.st = .idle) (hwf : wellFormedEnc s.cfg.enc = true)
    {n : Nat} {moves evs : List Event} (hmoves : moves = List.replicate n (.move .encoder) ++ evs) :
    run (n + 1) { s with events := .move (.host (.transmit c)) :: moves } =
      .next { encoderMove^[n] (startTelegram c s) with events := evs } := by
  have hstep : step { s with events := .move (.host (.transmit c)) :: moves } =
      .next { startTelegram c s with events := moves } :=
    (step_of_transmit_request rfl).trans
      (congrArg Host.Outcome.next (requestTransmit_accepted (s := { s with events := moves }) c hst hwf))
  rw [run_succ n hstep, hmoves]
  exact run_encoderMoves n (startTelegram c s) evs

/-- The first of n moves, and those after them. -/
theorem replicate_eq_append {α : Type} {j n : Nat} (x : α) (l : List α) (hj : j ≤ n) :
    List.replicate n x ++ l = List.replicate j x ++ (List.replicate (n - j) x ++ l) := by
  rw [← List.append_assoc, List.replicate_append_replicate, Nat.add_sub_cancel' hj]

@[simp] theorem emittedSegments_append (l m : List EncAction) :
    emittedSegments (l ++ m) = emittedSegments l ++ emittedSegments m := List.filterMap_append

@[simp] theorem emittedSegments_transmit_cons (c : Byte) (l : List EncAction) :
    emittedSegments (.transmit c :: l) = emittedSegments l := rfl

@[simp] theorem emittedSegments_map_emit (l : List Segment) : emittedSegments (l.map .emit) = l := by
  simp [emittedSegments, List.filterMap_map]

/-- Settles O43: the moves after TRANSMIT emit the telegram, and only the last leaves the encoder idle. -/
theorem aTelegramIsExactlySegs : Obligations.ATelegramIsExactlySegs := by
  intro c s hst hwf
  obtain ⟨hinv, hidle, hwork, hlog⟩ := telegram_emitted c hwf
  refine ⟨⟨_, run_transmit c hst hwf rfl, hidle, ?off, ?emitted, hwork.dec, hwork.faults, rfl⟩,
    fun j hj => ⟨_, run_transmit c hst hwf (replicate_eq_append _ _ hj.le), busy_during_telegram c hwf hj⟩⟩
  case off =>
    obtain ⟨hcarrier, -⟩ := hinv
    exact (carrierOk_idle hidle).mp hcarrier
  case emitted => exact (congrArg emittedSegments hlog).trans (by simp)

/-! ### No state persists -/

/-- Settles O42: an accepted request writes every register of its unit but the carrier, which is off in a good idle
encoder. -/
theorem noStatePersistsBetweenCalls : Obligations.NoStatePersistsBetweenCalls := by
  intro s u hcfg
  refine ⟨fun c ⟨hs, _⟩ ⟨hu, _⟩ hsidle huidle hwf => ⟨startTelegram c s, startTelegram c u, ?_, ?_, ?_⟩,
    fun hsrest hurest hwf => ⟨startAttempt s, startAttempt u, ?_, ?_, rfl⟩⟩
  · exact congrArg Host.Outcome.next (requestTransmit_accepted c hsidle hwf)
  · exact congrArg Host.Outcome.next (requestTransmit_accepted c huidle (hcfg ▸ hwf))
  · rw [startTelegram_enc, startTelegram_enc, hcfg, (carrierOk_idle hsidle).mp hs, (carrierOk_idle huidle).mp hu]
  · exact congrArg Host.Outcome.next (requestReceive_accepted hsrest hwf)
  · exact congrArg Host.Outcome.next (requestReceive_accepted hurest (hcfg ▸ hwf))

end Sys2Proof.Machine
end

section
/-! PROOFS. The attempt as a function (R185): what each answer does to the two loops of decode(rs), and the loops over a
start sequence and the readings of a frame. -/

namespace Sys2Proof.Machine

/-! ### One answer of AwaitStart -/

/-- A budget that lasts for m reads is not spent before the m-th (R12, R96). -/
theorem compareBudget_of_budgetAtLeast {n m : Nat} {b : Budget} (hb : budgetAtLeast m b) (hn : n < m) :
    compareBudget n b = .lt := by
  rw [compareBudget_lt]
  rintro x rfl
  exact hn.trans_le hb

/-- A spent budget ends AwaitStart, whatever the answers (R173). -/
theorem awaitLoop_spent {k : DecConfig} {tries : Nat} (sc : Nat) (rs : List Reading)
    (hspent : compareBudget tries k.startTries = .eq) : awaitLoop k sc tries rs = .result .noStart tries := by
  cases rs <;> simp [awaitLoop, hspent]

/-- A reading in the start band is counted, and the last one wanted goes on to the frame bits (R174). -/
theorem awaitLoop_inBand {k : DecConfig} {tries : Nat} {r : Reading} (sc : Nat) (rs : List Reading)
    (hleft : compareBudget tries k.startTries = .lt) (hr : classifyAwait k.err r = .inBand) :
    awaitLoop k sc tries (r :: rs) =
      if sc + 1 = k.s then readLoop k 0 0#24 (tries + 1) rs else awaitLoop k (sc + 1) (tries + 1) rs := by
  simp [awaitLoop, hleft, hr]

/-- Under the policy of R13 a timed-out read ends AwaitStart (R174). -/
theorem awaitLoop_timeoutEnds {k : DecConfig} {tries : Nat} (sc : Nat) (rs : List Reading)
    (hleft : compareBudget tries k.startTries = .lt) (hends : k.awaitTimeoutEnds = true) :
    awaitLoop k sc tries (none :: rs) = .result .noStart (tries + 1) := by
  simp [awaitLoop, hleft, hends]

/-- Any other reading outside the start band starts the count again (R174). -/
theorem awaitLoop_outsideBand {k : DecConfig} {tries : Nat} {r : Reading} (sc : Nat) (rs : List Reading)
    (hleft : compareBudget tries k.startTries = .lt) (hr : outsideBand k.err r)
    (hpolicy : k.awaitTimeoutEnds = false ∨ r ≠ none) :
    awaitLoop k sc tries (r :: rs) = awaitLoop k 0 (tries + 1) rs := by
  cases r with
  | none =>
    have hgoes : k.awaitTimeoutEnds = false := hpolicy.resolve_right (fun h => h rfl)
    simp [awaitLoop, hleft, hgoes]
  | some d =>
    have hout : classifyAwait k.err (some d) = .outOfBand := by
      rcases classifyAwait_some_bands k.err d with ⟨-, -, hin⟩ | ⟨-, hout⟩
      · exact absurd hin hr
      · exact hout
    simp [awaitLoop, hleft, hout]

/-! ### One answer of ReadingBits -/

/-- The result that a completed frame word reports (R180, R181). -/
def frameResult (v : Frame24) : Result :=
  .frame (addressField v) (commandField v) (inverseField v) (validFlag (commandField v) (inverseField v))

theorem complete_eq_finish (v : Frame24) (s : State) : complete v s = finish (frameResult v) s := rfl

/-- The frame of a command is reported with its three bytes, and valid (R86, R181). -/
theorem frameResult_frameWordOf (addr c : Byte) :
    frameResult (frameWordOf addr c) = .frame addr c (255#8 - c) true := by
  simp [frameResult, frameWordOf, validFlag, complement_eq_sub]

/-- A reading that gives no bit aborts (R177). -/
theorem readLoop_noBit {k : DecConfig} {r : Reading} (n : Nat) (acc : Frame24) (used : Nat) (rs : List Reading)
    (hr : readBit? k.err r = none) : readLoop k n acc used (r :: rs) = .result .incomplete (used + 1) := by
  simp [readLoop, hr]

/-- A bit is shifted in, and the 24th completes the frame (R176, R180). -/
theorem readLoop_bit {k : DecConfig} {r : Reading} {b : Bool} (n : Nat) (acc : Frame24) (used : Nat)
    (rs : List Reading) (hr : readBit? k.err r = some b) :
    readLoop k n acc used (r :: rs) =
      if n + 1 = 24 then .result (frameResult (shiftIn acc b)) (used + 1)
      else readLoop k (n + 1) (shiftIn acc b) (used + 1) rs := by
  simp [readLoop, hr, frameResult]

/-! ### A start sequence and a frame -/

/-- Readings outside the start band, within the budget, only use up reads (R174, R190). -/
theorem awaitLoop_lost {k : DecConfig} {lost : List Reading} (tries : Nat) (rs : List Reading)
    (hbudget : budgetAtLeast (tries + lost.length) k.startTries) (hlost : ∀ r ∈ lost, outsideBand k.err r)
    (hpolicy : k.awaitTimeoutEnds = false ∨ none ∉ lost) :
    awaitLoop k 0 tries (lost ++ rs) = awaitLoop k 0 (tries + lost.length) rs := by
  induction lost generalizing tries with
  | nil => rfl
  | cons r lost ih =>
    obtain ⟨hr, hlost⟩ := List.forall_mem_cons.mp hlost
    have hlength : tries + (r :: lost).length = tries + 1 + lost.length := by rw [List.length_cons]; omega
    have hrest : k.awaitTimeoutEnds = false ∨ none ∉ lost := hpolicy.imp_right fun h hmem => h (.tail r hmem)
    have hfirst : k.awaitTimeoutEnds = false ∨ r ≠ none := hpolicy.imp_right fun h heq => h (heq ▸ .head lost)
    rw [hlength] at hbudget ⊢
    have hleft := compareBudget_of_budgetAtLeast hbudget (show tries < _ by omega)
    rw [List.cons_append, awaitLoop_outsideBand 0 _ hleft hr hfirst]
    exact ih (tries + 1) hbudget hlost hrest

/-- The start pulses still wanted, within the budget, synchronise (R174). -/
theorem awaitLoop_starts {k : DecConfig} {starts : List Reading} {sc : Nat} (tries : Nat) (rs : List Reading)
    (hbudget : budgetAtLeast (tries + starts.length) k.startTries) (hsc : sc < k.s)
    (hlength : sc + starts.length = k.s) (hstarts : ∀ r ∈ starts, classifyAwait k.err r = .inBand) :
    awaitLoop k sc tries (starts ++ rs) = readLoop k 0 0#24 (tries + starts.length) rs := by
  induction starts generalizing sc tries with
  | nil => simp at hlength; omega
  | cons r starts ih =>
    obtain ⟨hr, hstarts⟩ := List.forall_mem_cons.mp hstarts
    rw [List.length_cons] at hlength hbudget ⊢
    have hleft := compareBudget_of_budgetAtLeast hbudget (show tries < _ by omega)
    rw [List.cons_append, awaitLoop_inBand sc _ hleft hr]
    by_cases hlast : sc + 1 = k.s
    · obtain rfl : starts = [] := List.eq_nil_of_length_eq_zero (by omega)
      rw [if_pos hlast]
      rfl
    · rw [show tries + (starts.length + 1) = tries + 1 + starts.length by omega] at hbudget ⊢
      rw [if_neg hlast]
      exact ih (tries + 1) hbudget (by omega) (by omega) hstarts

/-- A frame word's bit at position n comes after the n bits before it (R65, R88). -/
theorem shiftIn_frameBit (fw : Frame24) {n : Nat} (hn : n < 24) :
    shiftIn (fw >>> (24 - n)) (frameBit fw n) = fw >>> (24 - (n + 1)) := by
  apply BitVec.eq_of_getLsbD_eq
  intro j hj
  rw [shiftIn_bit _ _ _ hj, frameBit_eq hn, BitVec.getLsbD_ushiftRight, BitVec.getLsbD_ushiftRight]
  split
  · next hzero => rw [hzero, show 24 - (n + 1) + 0 = 23 - n by omega]
  · next hpos => rw [show 24 - n + (j - 1) = 24 - (n + 1) + j by omega]

/-- Readings that give the bits of a frame word from position n on complete it (R176, R180). -/
theorem readLoop_frameBits {k : DecConfig} {fw : Frame24} {f : Nat → Reading}
    (hf : ∀ j < 24, readBit? k.err (f j) = some (frameBit fw j)) {m n : Nat} (hm : n + m + 1 = 24) (used : Nat)
    (rs : List Reading) :
    readLoop k n (fw >>> (24 - n)) used (((List.range 24).drop n).map f ++ rs) =
      .result (frameResult fw) (used + (m + 1)) := by
  induction m generalizing n used with
  | zero =>
    obtain rfl : n = 23 := by omega
    rw [drop_range_of_lt (by omega), List.map_cons, List.cons_append, readLoop_bit _ _ _ _ (hf 23 (by omega)),
      if_pos rfl, shiftIn_frameBit fw (by omega)]
    rfl
  | succ m ih =>
    rw [drop_range_of_lt (by omega), List.map_cons, List.cons_append, readLoop_bit _ _ _ _ (hf n (by omega)),
      if_neg (by omega), shiftIn_frameBit fw (by omega), ih (by omega)]
    congr 1
    omega

/-- An attempt on readings outside the start band, then a start sequence, then the readings of a frame: it reports the
frame, and reads all of them. -/
theorem decodeAttempt_frame {k : DecConfig} {lost starts : List Reading} {fw : Frame24} {f : Nat → Reading}
    (rs : List Reading) (hwf : wellFormedDec k = true)
    (hbudget : budgetAtLeast (lost.length + k.s) k.startTries) (hlost : ∀ r ∈ lost, outsideBand k.err r)
    (hpolicy : k.awaitTimeoutEnds = false ∨ none ∉ lost)
    (hlength : starts.length = k.s) (hstarts : ∀ r ∈ starts, classifyAwait k.err r = .inBand)
    (hf : ∀ j < 24, readBit? k.err (f j) = some (frameBit fw j)) :
    decodeAttempt k (lost ++ (starts ++ ((List.range 24).map f ++ rs))) =
      .result (frameResult fw) (lost.length + k.s + 24) := by
  obtain ⟨-, hs, -, -⟩ := wellFormedDec_iff.mp hwf
  have hpreamble : budgetAtLeast (0 + lost.length) k.startTries := by
    cases hk : k.startTries with
    | unlimited => trivial
    | reads n => rw [hk] at hbudget; exact le_trans (by omega) hbudget
  have hzero : fw >>> (24 - 0) = 0#24 := BitVec.ushiftRight_eq_zero (by omega)
  rw [← hlength] at hbudget ⊢
  rw [decodeAttempt, awaitLoop_lost 0 _ hpreamble hlost hpolicy, Nat.zero_add,
    awaitLoop_starts _ _ hbudget hs (by omega) hstarts, ← hzero]
  exact readLoop_frameBits hf (m := 23) (n := 0) rfl _ rs

/-! ### The readings of a telegram -/

/-- The readings of a telegram are those of the preamble, one start sequence, one frame, and what comes after. -/
theorem idealReadings_telegram_eq {ke : EncConfig} (c : Byte) (n : Nat) (hr : 1 ≤ ke.r) :
    ∃ rs, idealReadings (telegram ke c) n = preReadings ke.err ke.p ++ (startReadings ke.err ke.s ++
      ((List.range 24).map (fun j => bitReading ke.err (frameBit (frameWordOf ke.addr c) j)) ++ rs)) := by
  obtain ⟨m, hm⟩ := Nat.exists_eq_add_of_le' hr
  refine ⟨repeated m (startReadings ke.err ke.s ++ frameReadings ke.err (frameWordOf ke.addr c)) ++
    List.replicate n none, ?_⟩
  rw [idealReadingsOfATelegram ke c n, hm, repeated]
  simp only [frameReadings, List.append_assoc]

/-- Where the base units interoperate, a bit's nominal reading gives the bit (R120). -/
theorem readBit?_bitReading {ee ed : Nat} (hed : 1 ≤ ed) (h : interoperable ee ed) (b : Bool) :
    readBit? ed (bitReading ee b) = some b := by
  obtain ⟨hlow, hhigh⟩ := h
  obtain ⟨hzero, hzero', hone, hone'⟩ := bitBursts_inBand_of_startBurst hed hlow hhigh
  rw [readBit?_eq_some]
  cases b with
  | false => exact classifyRead_some_zero.mpr ⟨hzero, hzero'⟩
  | true => exact classifyRead_some_one.mpr ⟨hone, hone'⟩

/-- Over the ideal channel, at base units that interoperate, the first attempt on a telegram reports its command's
frame (R187). -/
theorem decodeAttempt_telegram {ke : EncConfig} {kd : DecConfig} (c : Byte) (n : Nat) (hke : wellFormedEnc ke = true)
    (hkd : wellFormedDec kd = true) (hunits : interoperable ke.err kd.err) (hs : kd.s = ke.s)
    (hbudget : budgetAtLeast (ke.p + ke.s) kd.startTries) :
    decodeAttempt kd (idealReadings (telegram ke c) n) =
      .result (.frame ke.addr c (255#8 - c) true) (ke.p + ke.s + 24) := by
  obtain ⟨-, -, hr, -⟩ := wellFormedEnc_iff.mp hke
  obtain ⟨hed, -, -, -⟩ := wellFormedDec_iff.mp hkd
  obtain ⟨hlow, hhigh⟩ := id hunits
  obtain ⟨rs, hrs⟩ := idealReadings_telegram_eq c n hr
  have hpre : ∀ r ∈ preReadings ke.err ke.p, r = some (2 * ke.err) := fun _ => List.eq_of_mem_replicate
  have hstart : ∀ r ∈ startReadings ke.err ke.s, r = some (6 * ke.err) := fun _ => List.eq_of_mem_replicate
  have hpreLength : (preReadings ke.err ke.p).length = ke.p := List.length_replicate
  have hstartLength : (startReadings ke.err ke.s).length = ke.s := List.length_replicate
  rw [hrs, ← frameResult_frameWordOf, decodeAttempt_frame rs hkd, hpreLength, hs]
  case hbudget => rw [hpreLength, hs]; exact hbudget
  case hlost =>
    intro r hr
    rw [hpre r hr, outsideBand, classifyAwait_some_outOfBand.mpr (.inl (by omega))]
    exact AwClass.noConfusion
  case hpolicy => exact .inr fun hmem => nomatch hpre _ hmem
  case hlength => rw [hstartLength, hs]
  case hstarts =>
    intro r hr
    rw [hstart r hr]
    exact classifyAwait_some_inBand.mpr ⟨hlow, hhigh⟩
  case hf => exact fun j _ => readBit?_bitReading hed hunits _

end Sys2Proof.Machine
end

section
/-! PROOFS. The attempt in the machine: moves of the decoder follow decode(rs) answer by answer (R185), and so the
decoder reports the frame that the encoder sent (R187). -/

namespace Sys2Proof.Machine

/-! ### Moves of the decoder -/

/-- m listed moves of the decoder take s to t, whatever is listed after them. -/
def DecoderRun (m : Nat) (s t : State) : Prop :=
  ∀ evs, run m { s with events := List.replicate m (.move .decoder) ++ evs } = .next { t with events := evs }

theorem DecoderRun.refl (s : State) : DecoderRun 0 s s := fun _ => rfl

theorem DecoderRun.trans {m n : Nat} {s t u : State} (h₁ : DecoderRun m s t) (h₂ : DecoderRun n t u) :
    DecoderRun (m + n) s u := fun evs => by
  rw [← List.replicate_append_replicate, List.append_assoc]
  exact run_append (h₁ _) (h₂ evs)

/-- One move runs the operation that the decoder's selector word and guard name (R96). -/
theorem decoderRun_one {s t : State} {i : Instr}
    (hsel : decodeDecSel (decStCode s.dec.st) false (triesGuard s) = .ok i)
    (hexec : ∀ evs, exec i { s with events := evs } = .next { t with events := evs }) :
    DecoderRun 1 s t := fun evs => by
  have hstep := (step_of_decoder_move (s := { s with events := .move .decoder :: evs }) rfl rfl hsel).trans (hexec evs)
  exact run_succ 0 hstep

/-- A read neither reads nor writes the events still to come. -/
theorem measurePulse_withEvents (timeout : Nat) (s : State) (evs : List Event) :
    measurePulse timeout { s with events := evs } = { measurePulse timeout s with events := evs } := by
  obtain ⟨cfg, enc, dec, faults, events, answers, freeRounds, freeReads, encLog, decLog⟩ := s
  cases answers <;> rfl

theorem awaitMeasure_withEvents (s : State) (evs : List Event) :
    awaitMeasure { s with events := evs } = { awaitMeasure s with events := evs } := by
  simp only [awaitMeasure, measurePulse_withEvents]

/-- D.AWAIT_READ neither reads nor writes the events still to come. -/
theorem awaitRead_withEvents (s : State) (evs : List Event) :
    awaitRead { s with events := evs } = { awaitRead s with events := evs } := by
  have hnext : nextAnswer { s with events := evs } = nextAnswer s := rfl
  simp only [awaitRead, hnext, awaitMeasure_withEvents]
  cases classifyAwait s.cfg.dec.err (nextAnswer s) with
  | inBand | outOfBand => rfl
  | timeout => simp only [onAwTimeout]; split <;> rfl

/-- D.READ_BIT neither reads nor writes the events still to come. -/
theorem readBitStep_withEvents (s : State) (evs : List Event) :
    readBitStep { s with events := evs } = { readBitStep s with events := evs } := by
  have hnext : nextAnswer { s with events := evs } = nextAnswer s := rfl
  simp only [readBitStep, hnext, bitMeasure, measurePulse_withEvents]
  cases classifyRead s.cfg.dec.err (nextAnswer s) with
  | timeout | abortShort | abortLong => rfl
  | one | zero => simp only [onBit]; split <;> rfl

theorem decoderRun_budgetSpent {s : State} (hst : s.dec.st = .await) (hspent : triesGuard s = .eq) :
    DecoderRun 1 s (budgetSpent s) :=
  decoderRun_one (i := .dNostart) (by rw [hst, hspent]; rfl) fun _ => whenSelected_next.mpr ⟨⟨hst, hspent⟩, rfl⟩

theorem decoderRun_awaitRead {s : State} (hst : s.dec.st = .await) (hleft : triesGuard s = .lt) :
    DecoderRun 1 s (awaitRead s) :=
  decoderRun_one (i := .dAwaitRead) (by rw [hst, hleft]; rfl) fun evs =>
    whenSelected_next.mpr ⟨⟨hst, hleft⟩, awaitRead_withEvents s evs⟩

theorem decoderRun_guardWait {s : State} (hst : s.dec.st = .synced) : DecoderRun 1 s (guardWait s) :=
  decoderRun_one (i := .dGuard) (by rw [hst]; rfl) fun _ => whenSelected_next.mpr ⟨hst, rfl⟩

theorem decoderRun_readBitStep {s : State} (hst : s.dec.st = .read) : DecoderRun 1 s (readBitStep s) :=
  decoderRun_one (i := .dReadBit) (by rw [hst]; rfl) fun evs =>
    whenSelected_next.mpr ⟨hst, readBitStep_withEvents s evs⟩

/-- A listed receiveFrame() runs RECEIVE (R96). -/
theorem step_of_receive_request {s : State} {evs : List Event} (hev : s.events = .move (.host .receive) :: evs) :
    step s = exec .receive { s with events := evs } :=
  step_of_listed_event hev (decodeDecSel_request s.dec.st (triesGuard s))

/-! ### The end of an attempt -/

/-- From s, moves of the decoder end the attempt at t, which reports x and has read the next j of the answers listed. -/
structure AttemptEnds (s : State) (x : Result) (j : Nat) (t : State) : Prop where
  run : ∃ m, DecoderRun m s t
  done : t.dec.st = .done
  res : t.dec.res = x
  read : j ≤ s.answers.length
  answers : t.answers = s.answers.drop j
  work : DecoderWork s t

/-- Moves that read nothing may come before. -/
theorem AttemptEnds.of_run {s u t : State} {x : Result} {j m : Nat} (h : AttemptEnds u x j t)
    (hrun : DecoderRun m s u) (hanswers : u.answers = s.answers) (hwork : DecoderWork s u) : AttemptEnds s x j t where
  run := by
    obtain ⟨n, hn⟩ := h.run
    exact ⟨m + n, hrun.trans hn⟩
  done := h.done
  res := h.res
  read := hanswers ▸ h.read
  answers := hanswers ▸ h.answers
  work := hwork.trans h.work

/-- An attempt that has ended. -/
theorem attemptEnds_of_done {s : State} {x : Result} (hst : s.dec.st = .done) (hres : s.dec.res = x) :
    AttemptEnds s x 0 s :=
  ⟨⟨0, .refl s⟩, hst, hres, Nat.zero_le _, rfl, rfl, rfl, rfl⟩

/-- One move of the decoder takes s to u, and reads the answer r. -/
structure ReadsOne (s : State) (r : Reading) (u : State) : Prop where
  run : DecoderRun 1 s u
  answers : s.answers = r :: u.answers
  work : DecoderWork s u

theorem AttemptEnds.of_read {s u t : State} {x : Result} {j : Nat} {r : Reading} (h : AttemptEnds u x j t)
    (hread : ReadsOne s r u) : AttemptEnds s x (j + 1) t where
  run := by
    obtain ⟨n, hn⟩ := h.run
    exact ⟨1 + n, hread.run.trans hn⟩
  done := h.done
  res := h.res
  read := by rw [hread.answers]; exact Nat.succ_le_succ h.read
  answers := by rw [hread.answers]; exact h.answers
  work := hread.work.trans h.work

theorem readsOne_awaitRead {s : State} {r : Reading} {rs : List Reading} (hrs : s.answers = r :: rs)
    (hst : s.dec.st = .await) (hleft : triesGuard s = .lt) : ReadsOne s r (awaitRead s) where
  run := decoderRun_awaitRead hst hleft
  answers := by rw [(noFurtherRead_awaitRead s).answers, measurePulse_answers, hrs, List.tail_cons]
  work := decoderWork_awaitRead s

theorem readsOne_readBitStep {s : State} {r : Reading} {rs : List Reading} (hrs : s.answers = r :: rs)
    (hst : s.dec.st = .read) : ReadsOne s r (readBitStep s) where
  run := decoderRun_readBitStep hst
  answers := by rw [(noFurtherRead_readBitStep s).answers, measurePulse_answers, hrs, List.tail_cons]
  work := decoderWork_readBitStep s

/-! ### ReadingBits in the machine -/

/-- A reading that gives no bit ends the attempt with Incomplete (R177). -/
theorem readBitStep_noBit_dec {s : State} (h : readBit? s.cfg.dec.err (nextAnswer s) = none) :
    (readBitStep s).dec.st = .done ∧ (readBitStep s).dec.res = .incomplete := by
  rw [readBitStep_no_bit h, abort_dec]
  exact ⟨rfl, rfl⟩

/-- A reading that gives a bit shifts it in, and as the 24th it ends the attempt with the frame (R176, R180). -/
theorem readBitStep_bit_dec {s : State} {b : Bool} (h : readBit? s.cfg.dec.err (nextAnswer s) = some b) :
    (readBitStep s).dec =
      if s.dec.n + 1 = 24 then
        { s.dec with acc := shiftIn s.dec.acc b, n := s.dec.n + 1, st := .done,
                     res := frameResult (shiftIn s.dec.acc b) }
      else { s.dec with acc := shiftIn s.dec.acc b, n := s.dec.n + 1 } := by
  rcases readBitStep_cases s with ⟨hnone, -⟩ | ⟨b', hbit, ht⟩
  · simp [hnone] at h
  · obtain rfl : b' = b := Option.some.inj (hbit.symm.trans h)
    by_cases hlast : s.dec.n + 1 = 24
    · rw [ht, onBit_completes (by rw [bitMeasure_dec]; exact hlast), complete_eq_finish, finish_dec, bitMeasure_dec,
        if_pos hlast]
    · rw [ht, onBit_collects (by rw [bitMeasure_dec]; exact hlast), bitMeasure_dec, if_neg hlast]

/-- From ReadingBits the machine follows the loop of decode(rs) to its result (R185). -/
theorem attemptEnds_of_readLoop {rs : List Reading} {s : State} {x : Result} {used used' : Nat}
    (hst : s.dec.st = .read) (hrs : s.answers = rs)
    (hloop : readLoop s.cfg.dec s.dec.n s.dec.acc used rs = .result x used') :
    ∃ j t, used' = used + j ∧ AttemptEnds s x j t := by
  induction rs generalizing s used with
  | nil => simp [readLoop] at hloop
  | cons r rs ih =>
    have hread : ReadsOne s r (readBitStep s) := readsOne_readBitStep hrs hst
    have hrest : (readBitStep s).answers = rs := List.tail_eq_of_cons_eq (hread.answers.symm.trans hrs)
    rw [← nextAnswer_cons hrs] at hloop
    cases hbit : readBit? s.cfg.dec.err (nextAnswer s) with
    | none =>
      obtain ⟨hdone, hres⟩ := readBitStep_noBit_dec hbit
      rw [readLoop_noBit _ _ _ _ hbit] at hloop
      obtain ⟨rfl, rfl⟩ := Attempt.result.inj hloop
      exact ⟨1, _, rfl, (attemptEnds_of_done hdone hres).of_read hread⟩
    | some b =>
      have hdec := readBitStep_bit_dec hbit
      rw [readLoop_bit _ _ _ _ hbit] at hloop
      split at hloop
      · next hlast =>
        rw [if_pos hlast] at hdec
        obtain ⟨rfl, rfl⟩ := Attempt.result.inj hloop
        exact ⟨1, _, rfl, (attemptEnds_of_done (by rw [hdec]) (by rw [hdec])).of_read hread⟩
      · next hmore =>
        rw [if_neg hmore] at hdec
        obtain ⟨j, t, rfl, hends⟩ := ih (s := readBitStep s) (by rw [hdec]; exact hst) hrest
          (by rw [hread.work.cfg, hdec]; exact hloop)
        exact ⟨j + 1, t, by omega, hends.of_read hread⟩

/-! ### AwaitStart in the machine -/

/-- A start pulse is counted, and the last one wanted synchronises (R174). -/
theorem awaitRead_inBand_dec {s : State} (h : classifyAwait s.cfg.dec.err (nextAnswer s) = .inBand) :
    (awaitRead s).dec = { s.dec with tries := s.dec.tries + 1, sc := s.dec.sc + 1,
                                     st := if s.dec.sc + 1 = s.cfg.dec.s then .synced else s.dec.st } := by
  simp [awaitRead, h, onAwIn]

/-- Under the policy of R13 a timed-out read ends the attempt with NoStart (R174). -/
theorem awaitRead_timeoutEnds_dec {s : State} (h : nextAnswer s = none) (hends : s.cfg.dec.awaitTimeoutEnds = true) :
    (awaitRead s).dec.st = .done ∧ (awaitRead s).dec.res = .noStart := by
  rw [awaitRead_timeout h hends, finish_dec]
  exact ⟨rfl, rfl⟩

/-- Any other reading outside the start band starts the count again (R174). -/
theorem awaitRead_outsideBand_dec {s : State} (h : outsideBand s.cfg.dec.err (nextAnswer s))
    (hpolicy : s.cfg.dec.awaitTimeoutEnds = false ∨ nextAnswer s ≠ none) :
    (awaitRead s).dec = { s.dec with tries := s.dec.tries + 1, sc := 0 } := by
  rcases awaitRead_cases s with ⟨hin, -⟩ | ⟨hnone, hends, -⟩ | ⟨-, -, ht⟩ | ⟨-, ht⟩
  · exact absurd hin h
  · exact absurd hnone (hpolicy.resolve_left (by rw [hends]; exact Bool.noConfusion))
  · rw [ht, onAwOut, awaitMeasure_dec]
  · rw [ht, onAwOut, awaitMeasure_dec]

/-- The machine reports NoStart when the budget is spent (R173). -/
theorem attemptEnds_of_spent {s : State} (hst : s.dec.st = .await) (hspent : triesGuard s = .eq) :
    AttemptEnds s .noStart 0 (budgetSpent s) :=
  (attemptEnds_of_done (s := budgetSpent s) rfl rfl).of_run (decoderRun_budgetSpent hst hspent) rfl ⟨rfl, rfl, rfl⟩

/-- After the last start pulse the machine follows ReadingBits, the guard delay before it (R175, R185). -/
theorem attemptEnds_of_synced {s : State} {x : Result} {used used' : Nat} (hst : s.dec.st = .synced)
    (hloop : readLoop s.cfg.dec 0 0#24 used s.answers = .result x used') :
    ∃ j t, used' = used + j ∧ AttemptEnds s x j t := by
  obtain ⟨j, t, hused, hends⟩ := attemptEnds_of_readLoop (s := guardWait s) rfl rfl hloop
  exact ⟨j, t, hused, hends.of_run (decoderRun_guardWait hst) rfl ⟨rfl, rfl, rfl⟩⟩

/-- From AwaitStart the machine follows the loop of decode(rs) to its result (R185). -/
theorem attemptEnds_of_awaitLoop {rs : List Reading} {s : State} {x : Result} {used : Nat}
    (hst : s.dec.st = .await) (htries : TriesOk s) (hrs : s.answers = rs)
    (hloop : awaitLoop s.cfg.dec s.dec.sc s.dec.tries rs = .result x used) :
    ∃ j t, used = s.dec.tries + j ∧ AttemptEnds s x j t := by
  induction rs generalizing s with
  | nil =>
    by_cases hspent : triesGuard s = .eq
    · rw [awaitLoop_spent _ _ hspent] at hloop
      obtain ⟨rfl, rfl⟩ := Attempt.result.inj hloop
      exact ⟨0, _, rfl, attemptEnds_of_spent hst hspent⟩
    · have hleft : compareBudget s.dec.tries s.cfg.dec.startTries ≠ .eq := hspent
      simp [awaitLoop, hleft] at hloop
  | cons r rs ih =>
    cases hguard : triesGuard s with
    | gt => exact absurd hguard htries
    | eq =>
      rw [awaitLoop_spent _ _ hguard] at hloop
      obtain ⟨rfl, rfl⟩ := Attempt.result.inj hloop
      exact ⟨0, _, rfl, attemptEnds_of_spent hst hguard⟩
    | lt =>
      have hread : ReadsOne s r (awaitRead s) := readsOne_awaitRead hrs hst hguard
      have hrest : (awaitRead s).answers = rs := List.tail_eq_of_cons_eq (hread.answers.symm.trans hrs)
      have hcfg : (awaitRead s).cfg = s.cfg := hread.work.cfg
      have hleft : compareBudget s.dec.tries s.cfg.dec.startTries = .lt := hguard
      have hgoes (n : Nat) (hdec : (awaitRead s).dec = { s.dec with tries := s.dec.tries + 1, sc := n })
          (hloop : awaitLoop s.cfg.dec n (s.dec.tries + 1) rs = .result x used) :
          ∃ j t, used = s.dec.tries + j ∧ AttemptEnds s x j t := by
        obtain ⟨j, t, hused, hends⟩ := ih (s := awaitRead s) (by rw [hdec]; exact hst)
          (by rw [TriesOk, hcfg, hdec]; exact compareBudget_succ_ne_gt hguard) hrest (by rw [hcfg, hdec]; exact hloop)
        rw [hdec] at hused
        exact ⟨j + 1, t, hused.trans (Nat.succ_add_eq_add_succ _ j), hends.of_read hread⟩
      rw [← nextAnswer_cons hrs] at hloop
      by_cases hin : classifyAwait s.cfg.dec.err (nextAnswer s) = .inBand
      · have hdec := awaitRead_inBand_dec hin
        rw [awaitLoop_inBand _ _ hleft hin] at hloop
        split at hloop
        · next hlast =>
          rw [if_pos hlast] at hdec
          obtain ⟨j, t, rfl, hends⟩ := attemptEnds_of_synced (s := awaitRead s) (by rw [hdec])
            (by rw [hcfg, hrest]; exact hloop)
          exact ⟨j + 1, t, by omega, hends.of_read hread⟩
        · next hmore =>
          rw [if_neg hmore] at hdec
          exact hgoes _ hdec hloop
      · by_cases hpolicy : s.cfg.dec.awaitTimeoutEnds = false ∨ nextAnswer s ≠ none
        · rw [awaitLoop_outsideBand _ _ hleft hin hpolicy] at hloop
          exact hgoes 0 (awaitRead_outsideBand_dec hin hpolicy) hloop
        · obtain ⟨hends, hnone⟩ : s.cfg.dec.awaitTimeoutEnds = true ∧ nextAnswer s = none := by
            simpa using hpolicy
          obtain ⟨hdone, hres⟩ := awaitRead_timeoutEnds_dec hnone hends
          rw [hnone, awaitLoop_timeoutEnds _ _ hleft hends] at hloop
          obtain ⟨rfl, rfl⟩ := Attempt.result.inj hloop
          exact ⟨1, _, rfl, (attemptEnds_of_done hdone hres).of_read hread⟩

/-- A listed receiveFrame() at a decoder at rest, and then moves of the decoder: the machine reports the result of
decode(rs), and reads as many answers (R185). -/
theorem run_receive {s : State} {x : Result} {used : Nat} (hrest : decBusy s = false)
    (hwf : wellFormedDec s.cfg.dec = true) (hattempt : decodeAttempt s.cfg.dec s.answers = .result x used) :
    ∃ m t, AttemptEnds (startAttempt s) x used t ∧ ∀ evs,
      run (m + 1) { s with events := .move (.host .receive) :: List.replicate m (.move .decoder) ++ evs } =
        .next { t with events := evs } := by
  obtain ⟨j, t, hused, hends⟩ :=
    attemptEnds_of_awaitLoop (s := startAttempt s) rfl (compareBudget_zero_ne_gt _) rfl hattempt
  obtain rfl : used = j := hused.trans (Nat.zero_add j)
  obtain ⟨m, hm⟩ := hends.run
  refine ⟨m, t, hends, fun evs => ?_⟩
  let moves : List Event := List.replicate m (.move .decoder) ++ evs
  have hstep : step { s with events := .move (.host .receive) :: moves } =
      .next { startAttempt s with events := moves } :=
    (step_of_receive_request rfl).trans
      (congrArg Host.Outcome.next (requestReceive_accepted (s := { s with events := moves }) hrest hwf))
  exact (run_succ m hstep).trans (hm evs)

/-! ### From one unit to the other -/

/-- What the encoder has emitted since TRANSMIT, read off its record. -/
theorem emittedSegments_drop_telegram {l : List EncAction} {k : EncConfig} {c : Byte} {t : State}
    (hlog : t.encLog = l ++ .transmit c :: (telegram k c).map .emit) :
    emittedSegments (t.encLog.drop l.length) = telegram k c := by
  rw [hlog, List.drop_left, emittedSegments_transmit_cons, emittedSegments_map_emit]

/-- Settles O51: the encoder emits the telegram of c, the attempt on its readings comes to the frame of c, and the
machine follows the attempt. -/
theorem theDecoderReceivesWhatTheEncoderSends : Obligations.TheDecoderReceivesWhatTheEncoderSends := by
  intro c s hst hrest hke hkd hunits hstarts hbudget
  obtain ⟨-, hidle, hwork, hlog⟩ := telegram_emitted c hke
  have hsent := run_transmit c hst hke (moves := List.replicate (telegramLength s.cfg.enc) (.move .encoder)) (evs := [])
    (List.append_nil _).symm
  generalize encoderMove^[telegramLength s.cfg.enc] (startTelegram c s) = t at *
  have hemitted := emittedSegments_drop_telegram hlog
  have hattempt := decodeAttempt_telegram c 0 hke hkd hunits hstarts hbudget
  have hbusy : decBusy t = false := by rw [decBusy, hwork.dec]; exact hrest
  have hdec : t.cfg.dec = s.cfg.dec := congrArg Build.dec hwork.cfg
  obtain ⟨m, u, hends, hreceived⟩ := run_receive
    (s := { t with answers := idealReadings (telegram s.cfg.enc c) 0 }) hbusy (hdec ▸ hkd) (hdec ▸ hattempt)
  refine ⟨_, m, _, { u with events := [] }, hsent, hidle, ?received, hends.done, hends.res⟩
  case received =>
    rw [hemitted]
    simpa only [List.append_nil] using hreceived []

end Sys2Proof.Machine
end

section
/-! PROOFS. The decoder family (43_decoder.md), the operations: what RECEIVE and each decoder step do to the whole state
(R171 to R177, R180, R181), and the sentinel register that the counter and the accumulator stand for (R184). -/

namespace Sys2Proof.Machine

/-! ### RECEIVE and the end of the budget -/

/-- A busy decoder discards a request (R172). -/
theorem requestReceive_busy {s : State} (hbusy : decBusy s = true) :
    requestReceive s = raiseFault .overlappingReceive s := by
  simp [requestReceive, hbusy]

/-- A decoder at rest of an ill-formed configuration records it (R171). -/
theorem requestReceive_illFormed {s : State} (hbusy : decBusy s = false) (hwf : ¬ wellFormedDec s.cfg.dec = true) :
    requestReceive s = raiseFault .illFormedConfig s := by
  simp [requestReceive, hbusy, hwf]

theorem decBusy_of_rest {s : State} (hst : s.dec.st = .idle ∨ s.dec.st = .done) : decBusy s = false := by
  rcases hst with hst | hst <;> exact decBusy_of_st hst

theorem decBusy_of_attempt {s : State} (hst : s.dec.st = .await ∨ s.dec.st = .synced ∨ s.dec.st = .read) :
    decBusy s = true := by
  rcases hst with hst | hst | hst <;> exact decBusy_of_st hst

/-- Settles O9: the configuration decides between the accepted and the recorded request. -/
theorem receiveFromIdleOrDone : Obligations.ReceiveFromIdleOrDone := by
  intro s hst
  have hrest : decBusy s = false := decBusy_of_rest hst
  rw [← wellFormedDec_iff]
  refine ⟨fun hwf => ⟨startAttempt s, ?accepted, rfl, rfl⟩, fun hwf => ?recorded⟩
  case accepted => exact congrArg Host.Outcome.next (requestReceive_accepted hrest hwf)
  case recorded => exact congrArg Host.Outcome.next (requestReceive_illFormed hrest hwf)

/-- Settles O10. -/
theorem receiveWhileBusyIsDiscarded : Obligations.ReceiveWhileBusyIsDiscarded :=
  fun _ hst => congrArg Host.Outcome.next (requestReceive_busy (decBusy_of_attempt hst))

/-- Settles O11: a finite budget is spent exactly where the guard of D.NOSTART holds, an infinite one never. -/
theorem noStartWhenTheBudgetIsSpent : Obligations.NoStartWhenTheBudgetIsSpent := by
  intro s hst
  refine ⟨fun hspent => ⟨budgetSpent s, ?_, rfl, rfl⟩, fun hinfinite => ?_⟩
  · exact whenSelected_next.mpr ⟨⟨hst, compareBudget_eq.mpr hspent⟩, rfl⟩
  · refine whenSelected_refused_iff.mpr fun ⟨_, hspent⟩ => ?_
    rw [triesGuard, compareBudget_eq, hinfinite] at hspent
    cases hspent

/-! ### The steps of an attempt -/

/-- The read of D.AWAIT_READ, its record updates written out. -/
theorem awaitMeasure_eq (s : State) : awaitMeasure s = { dropAnswer s with
    dec := { s.dec with tries := s.dec.tries + 1 }
    decLog := s.decLog ++ [.measure s.cfg.dec.toStart (nextAnswer s)] } := by
  simp [awaitMeasure, measurePulse, logDec]

/-- The read of D.READ_BIT, its record updates written out. -/
theorem bitMeasure_eq (s : State) : bitMeasure s = { dropAnswer s with
    dec := s.dec
    decLog := s.decLog ++ [.measure s.cfg.dec.toBit (nextAnswer s)] } := by
  simp [bitMeasure, measurePulse, logDec]

theorem awaitRead_inBand {s : State} (h : classifyAwait s.cfg.dec.err (nextAnswer s) = .inBand) :
    awaitRead s = onAwIn (awaitMeasure s) := by
  simp [awaitRead, h]

theorem awaitRead_outOfBand {s : State} (h : classifyAwait s.cfg.dec.err (nextAnswer s) = .outOfBand) :
    awaitRead s = onAwOut (awaitMeasure s) := by
  simp [awaitRead, h]

theorem awaitRead_none {s : State} (h : nextAnswer s = none) : awaitRead s = onAwTimeout (awaitMeasure s) := by
  simp [awaitRead, h]

/-- Settles O13, class by class; a timeout is told apart by the policy of R13. -/
theorem awaitReadCountsStartPulses : Obligations.AwaitReadCountsStartPulses := by
  intro s hst hleft
  have hstep : exec .dAwaitRead s = .next (awaitRead s) := whenSelected_next.mpr ⟨⟨hst, hleft⟩, rfl⟩
  rw [hstep]
  refine ⟨fun d hr hlow hhigh => ?inBand, fun d hr hout => ?outOfBand, fun hr hgoes => ?goes, fun hr hends => ?ends⟩
  case inBand =>
    rw [awaitRead_inBand (hr ▸ classifyAwait_some_inBand.mpr ⟨hlow, hhigh⟩)]
    simp [onAwIn, awaitMeasure_eq, hst, hr]
  case outOfBand =>
    rw [awaitRead_outOfBand (hr ▸ classifyAwait_some_outOfBand.mpr hout)]
    simp [onAwOut, awaitMeasure_eq, hr]
  case goes =>
    rw [awaitRead_none hr]
    simp [onAwTimeout, awaitMeasure_eq, hr, hgoes]
  case ends =>
    rw [awaitRead_none hr]
    simp [onAwTimeout, awaitMeasure_eq, finish, report, logDec, hr, hends]

/-- Settles O14. -/
theorem guardWaitsAndEntersReading : Obligations.GuardWaitsAndEntersReading :=
  fun _ hst => whenSelected_next.mpr ⟨hst, rfl⟩

/-- A reading outside the bit bands gives no bit (R92). -/
theorem readBit?_eq_none_of_outside {e : Nat} {r : Reading}
    (h : r = none ∨ ∃ d, r = some d ∧ (d < e ∨ 5 * e < d)) : readBit? e r = none := by
  rw [readBit?_eq_none]
  rcases h with rfl | ⟨d, rfl, hd⟩
  · exact .inl rfl
  · by_cases hshort : d < e
    · exact .inr (.inl (classifyRead_some_abortShort.mpr hshort))
    · exact .inr (.inr (classifyRead_some_abortLong.mpr ⟨hshort, by omega⟩))

/-- A duration in the bit bands gives the bit of its band (R92). -/
theorem readBit?_some_eq {e d : Nat} (hlow : e ≤ d) (hhigh : d ≤ 5 * e) :
    readBit? e (some d) = some (decide (3 * e < d)) := by
  rw [readBit?_eq_some]
  by_cases hsplit : 3 * e < d
  · simpa [hsplit] using classifyRead_some_one.mpr ⟨hsplit, hhigh⟩
  · simpa [hsplit] using classifyRead_some_zero.mpr ⟨hlow, by omega⟩

/-- A reading that gives a bit shifts it in (R176). -/
theorem readBitStep_bit {s : State} {b : Bool} (h : readBit? s.cfg.dec.err (nextAnswer s) = some b) :
    readBitStep s = onBit b (bitMeasure s) := by
  rcases readBitStep_cases s with ⟨hnone, -⟩ | ⟨b', hbit, ht⟩
  · rw [h] at hnone; cases hnone
  · obtain rfl : b = b' := Option.some.inj (h.symm.trans hbit)
    exact ht

/-- A bit in the accumulator, as R88 writes it. -/
theorem shiftIn_eq (acc : Frame24) (b : Bool) : shiftIn acc b = (acc <<< 1) ||| (if b then 1#24 else 0#24) := by
  cases b <;> rfl

/-- The result of a frame word given by its fields (R181). -/
theorem frameResult_packFrame (a c i : Byte) :
    frameResult (packFrame a c i) = .frame a c i (decide (i = 255#8 - c)) := by
  simp [frameResult, validFlag_eq]

/-- Settles O15: the reading decides between the abort and a bit, and the counter between a bit and the last one. -/
theorem readBitAccumulatesAbortsOrCompletes : Obligations.ReadBitAccumulatesAbortsOrCompletes := by
  intro s hst
  refine ⟨fun r hr hout => ⟨abort (bitMeasure s), ?aborts, rfl, ?abort⟩, fun d b v hr hlow hhigh hb hv => ?bit⟩
  case aborts =>
    exact whenSelected_next.mpr ⟨hst, readBitStep_no_bit (hr ▸ readBit?_eq_none_of_outside hout)⟩
  case abort => simp [abort, bitMeasure_eq, finish, report, logDec, hr]
  case bit =>
    have hstep : exec .dReadBit s = .next (onBit b (bitMeasure s)) :=
      whenSelected_next.mpr ⟨hst, readBitStep_bit (by rw [hr, hb, readBit?_some_eq hlow hhigh])⟩
    rw [← shiftIn_eq] at hv
    rw [hstep]
    refine ⟨fun hmore => ?_, fun hlast a c i hword => ⟨_, rfl, ?_, ?_⟩⟩
    · rw [onBit_collects (by rw [bitMeasure_dec]; exact hmore)]
      simp [bitMeasure_eq, hr, hv]
    all_goals rw [onBit_completes (by rw [bitMeasure_dec]; exact hlast)]
    · rfl
    · have hpack : shiftIn s.dec.acc b = packFrame a c i := hv.symm.trans hword
      rw [complete_eq_finish, bitMeasure_dec, hv, hpack, frameResult_packFrame]
      simp [finish, report, logDec, bitMeasure_eq, hr, hlast]

/-! ### The sentinel register -/

/-- The reference's 25-bit register after the bits bs: it starts at 1 and takes each bit at bit 0 (R184). -/
def sentinel (bs : List Bool) : Nat := bs.foldl (fun x b => 2 * x + (if b then 1 else 0)) 1

theorem sentinel_concat (bs : List Bool) (b : Bool) :
    sentinel (bs ++ [b]) = 2 * sentinel bs + if b then 1 else 0 := by
  simp [sentinel]

/-- With room left, a bit doubles the accumulator and adds itself (R88). -/
theorem shiftIn_toNat {acc : Frame24} (b : Bool) (h : acc.toNat < 2 ^ 23) :
    (shiftIn acc b).toNat = 2 * acc.toNat + if b then 1 else 0 := by
  have hdisjoint : acc <<< 1 &&& (BitVec.ofBool b).setWidth 24 = 0#24 := by
    apply BitVec.eq_of_getLsbD_eq
    intro j hj
    cases j <;> simp
  have hbit : ((BitVec.ofBool b).setWidth 24).toNat = if b then 1 else 0 := by cases b <;> rfl
  rw [shiftIn, ← BitVec.add_eq_or_of_and_eq_zero _ _ hdisjoint, BitVec.toNat_add, BitVec.toNat_shiftLeft, hbit,
    Nat.shiftLeft_eq]
  split <;> omega

/-- After n bits the register is its sentinel bit n above the accumulator, which holds no bit from n on (R184). -/
theorem sentinel_eq {bs : List Bool} (h : bs.length ≤ 24) :
    sentinel bs = 2 ^ bs.length + (bs.foldl shiftIn 0#24).toNat ∧ (bs.foldl shiftIn 0#24).toNat < 2 ^ bs.length := by
  induction bs using List.reverseRecOn with
  | nil => exact ⟨rfl, Nat.one_pos⟩
  | append_singleton bs b ih =>
    rw [List.length_append, List.length_singleton] at h ⊢
    obtain ⟨hsum, hlt⟩ := ih (by omega)
    have hroom : (bs.foldl shiftIn 0#24).toNat < 2 ^ 23 := hlt.trans_le (Nat.pow_le_pow_right (by omega) (by omega))
    rw [sentinel_concat, hsum, List.foldl_append, List.foldl_cons, List.foldl_nil]
    refine ⟨?_, shiftIn_toNat_lt b hlt⟩
    rw [shiftIn_toNat b hroom, pow_succ]
    omega

/-- Settles O25: the sentinel stands above the accumulator, so it is at bit 24 exactly when 24 bits are in. -/
theorem sentinelEquivalence : Obligations.SentinelEquivalence := by
  intro bs h
  obtain ⟨hsum, hlt⟩ := sentinel_eq h
  refine ⟨hsum, ?_⟩
  change (sentinel bs).testBit 24 = true ↔ _
  rw [hsum]
  rcases h.lt_or_eq with hless | hfull
  · have hsmall : 2 ^ bs.length + (bs.foldl shiftIn 0#24).toNat < 2 ^ 24 := by
      calc 2 ^ bs.length + (bs.foldl shiftIn 0#24).toNat < 2 ^ (bs.length + 1) := by rw [pow_succ]; omega
        _ ≤ 2 ^ 24 := Nat.pow_le_pow_right (by omega) hless
    simp [Nat.testBit_lt_two_pow hsmall, hless.ne]
  · rw [hfull] at hlt ⊢
    rw [Nat.testBit_two_pow_add_eq, Nat.testBit_lt_two_pow hlt]
    simp

/-! ### Each unit writes only its own state -/

/-- t has the decoder state of s: its registers, its record and its channel. -/
structure SameDecoder (s t : State) : Prop where
  dec : t.dec = s.dec
  decLog : t.decLog = s.decLog
  answers : t.answers = s.answers
  freeReads : t.freeReads = s.freeReads

/-- t has the encoder state of s: its registers and its record. -/
structure SameEncoder (s t : State) : Prop where
  enc : t.enc = s.enc
  encLog : t.encLog = s.encLog

theorem SameEncoder.trans {s t u : State} (h₁ : SameEncoder s t) (h₂ : SameEncoder t u) : SameEncoder s u :=
  ⟨h₂.enc.trans h₁.enc, h₂.encLog.trans h₁.encLog⟩

theorem sameDecoder_of_whenSelected {g : Prop} [Decidable g] {s t u : State} (h : whenSelected g u = .next t)
    (hu : SameDecoder s u) : SameDecoder s t := by
  obtain ⟨-, rfl⟩ := whenSelected_next.mp h
  exact hu

theorem sameEncoder_of_whenSelected {g : Prop} [Decidable g] {s t u : State} (h : whenSelected g u = .next t)
    (hu : SameEncoder s u) : SameEncoder s t := by
  obtain ⟨-, rfl⟩ := whenSelected_next.mp h
  exact hu

/-- A command to the encoder writes no decoder state, accepted or not (R131, R132). -/
theorem sameDecoder_requestTransmit (c : Byte) (s : State) : SameDecoder s (requestTransmit c s) := by
  rcases requestTransmit_cases c s with ⟨-, h⟩ | ⟨-, -, h⟩ | ⟨-, -, h⟩ <;> rw [h] <;> exact ⟨rfl, rfl, rfl, rfl⟩

/-- A request to the decoder writes no encoder state, accepted or not (R171, R172). -/
theorem sameEncoder_requestReceive (s : State) : SameEncoder s (requestReceive s) := by
  rcases requestReceive_cases s with ⟨-, h⟩ | ⟨-, -, h⟩ | ⟨-, -, h⟩ <;> rw [h] <;> exact ⟨rfl, rfl⟩

theorem sameEncoder_measurePulse (n : Nat) (s : State) : SameEncoder s (measurePulse n s) :=
  ⟨measurePulse_enc n s, measurePulse_encLog n s⟩

theorem sameEncoder_awaitMeasure (s : State) : SameEncoder s (awaitMeasure s) :=
  (sameEncoder_measurePulse s.cfg.dec.toStart s).trans ⟨rfl, rfl⟩

theorem sameEncoder_bitMeasure (s : State) : SameEncoder s (bitMeasure s) :=
  sameEncoder_measurePulse s.cfg.dec.toBit s

theorem sameEncoder_onAwTimeout (s : State) : SameEncoder s (onAwTimeout s) := by
  unfold onAwTimeout
  split <;> exact ⟨rfl, rfl⟩

theorem sameEncoder_onBit (b : Bool) (s : State) : SameEncoder s (onBit b s) := by
  by_cases hlast : s.dec.n + 1 = 24
  · rw [onBit_completes hlast]; exact ⟨rfl, rfl⟩
  · rw [onBit_collects hlast]; exact ⟨rfl, rfl⟩

/-- D.AWAIT_READ writes no encoder state, whatever the answer (R174). -/
theorem sameEncoder_awaitRead (s : State) : SameEncoder s (awaitRead s) := by
  rcases awaitRead_cases s with ⟨-, h⟩ | ⟨-, -, h⟩ | ⟨-, -, h⟩ | ⟨-, h⟩ <;> rw [h] <;>
    exact (sameEncoder_awaitMeasure s).trans ⟨rfl, rfl⟩

/-- D.READ_BIT writes no encoder state, whatever the answer (R176, R177). -/
theorem sameEncoder_readBitStep (s : State) : SameEncoder s (readBitStep s) := by
  rcases readBitStep_cases s with ⟨-, h⟩ | ⟨b, -, h⟩ <;> rw [h]
  · exact (sameEncoder_bitMeasure s).trans ⟨rfl, rfl⟩
  · exact (sameEncoder_bitMeasure s).trans (sameEncoder_onBit b _)

/-- An instruction that does not act on the decoder is one of the encoder's, and not RESET. -/
theorem actsOnDecoder_eq_false {i : Instr} : actsOnDecoder i = false ↔ i ≠ .reset ∧ actsOnEncoder i = true := by
  simp [actsOnDecoder]

/-- The encoder's instructions write no decoder state (R170). -/
theorem sameDecoder_of_exec {i : Instr} {s t : State} (hi : actsOnDecoder i = false) (h : exec i s = .next t) :
    SameDecoder s t := by
  obtain ⟨hreset, hencoder⟩ := actsOnDecoder_eq_false.mp hi
  cases i with
  | transmit c => cases h; exact sameDecoder_requestTransmit c s
  | txkey k =>
    cases hk : registryOf s.cfg.enc.registry k with
    | none => simp [exec, execTxkey, hk] at h
    | some c =>
      rw [exec_txkey_of_registry hk] at h
      cases h; exact sameDecoder_requestTransmit c s
  | ePreBurst | ePreSpace | eStartBurst | eStartSpace | eDataBurst | eDataSpace | eStop
  | symZero | symOne | symStart | symPre0 | symStop => exact sameDecoder_of_whenSelected h ⟨rfl, rfl, rfl, rfl⟩
  | frameWord side =>
    cases side with
    | encoder => exact sameDecoder_of_whenSelected h ⟨rfl, rfl, rfl, rfl⟩
    | decoder => cases hencoder
  | reset => exact absurd rfl hreset
  | _ => cases hencoder

/-- The decoder's instructions write no encoder state (R170). -/
theorem sameEncoder_of_exec {i : Instr} {s t : State} (hi : actsOnEncoder i = false) (h : exec i s = .next t) :
    SameEncoder s t := by
  cases i with
  | receive => cases h; exact sameEncoder_requestReceive s
  | dNostart | dGuard | empty => exact sameEncoder_of_whenSelected h ⟨rfl, rfl⟩
  | dAwaitRead => exact sameEncoder_of_whenSelected h (sameEncoder_awaitRead s)
  | awIn | awOut => exact sameEncoder_of_whenSelected h ((sameEncoder_awaitMeasure s).trans ⟨rfl, rfl⟩)
  | awTimeout =>
    exact sameEncoder_of_whenSelected h ((sameEncoder_awaitMeasure s).trans (sameEncoder_onAwTimeout _))
  | dReadBit | frameValidTrue | frameValidFalse => exact sameEncoder_of_whenSelected h (sameEncoder_readBitStep s)
  | rbTimeout | rbAbortShort | rbAbortLong | incomplete =>
    exact sameEncoder_of_whenSelected h ((sameEncoder_bitMeasure s).trans ⟨rfl, rfl⟩)
  | rbOne | rbZero =>
    exact sameEncoder_of_whenSelected h ((sameEncoder_bitMeasure s).trans (sameEncoder_onBit _ _))
  | frameWord side =>
    cases side with
    | encoder => cases hi
    | decoder => exact sameEncoder_of_whenSelected h (sameEncoder_readBitStep s)
  | noStart =>
    cases hg : triesGuard s <;> simp only [exec, execNoStart, hg] at h
    case eq => exact sameEncoder_of_whenSelected h ⟨rfl, rfl⟩
    case lt => exact sameEncoder_of_whenSelected h ((sameEncoder_awaitMeasure s).trans ⟨rfl, rfl⟩)
    case gt => cases h
  | _ => cases hi

/-- Settles O40, unit by unit. -/
theorem unitsDoNotWriteEachOther : Obligations.UnitsDoNotWriteEachOther := by
  intro i s t h
  refine ⟨fun hi => ?_, fun hi => ?_⟩
  · obtain ⟨hdec, hlog, hanswers, hreads⟩ := sameDecoder_of_exec hi h
    exact ⟨hdec, hlog, hanswers, hreads⟩
  · obtain ⟨henc, hlog⟩ := sameEncoder_of_exec hi h
    exact ⟨henc, hlog⟩

end Sys2Proof.Machine
end

section
/-! PROOFS. The decoder family (43_decoder.md), the attempts: what decode(rs) comes to on readings of each shape (R187 to
R193), and the attempt in the machine, whether it ends or not (R185). -/

namespace Sys2Proof.Machine

/-! ### An attempt that synchronises -/

theorem budgetAtLeast_mono {m n : Nat} {b : Budget} (hmn : m ≤ n) (h : budgetAtLeast n b) : budgetAtLeast m b := by
  cases b with
  | unlimited => trivial
  | reads x => exact hmn.trans h

/-- After readings outside the start band, a start sequence within the budget synchronises (R174, R192). -/
theorem decodeAttempt_sync {k : DecConfig} {lost starts : List Reading} (rs : List Reading)
    (hwf : wellFormedDec k = true) (hbudget : budgetAtLeast (lost.length + k.s) k.startTries)
    (hlost : ∀ r ∈ lost, outsideBand k.err r) (hpolicy : k.awaitTimeoutEnds = false ∨ none ∉ lost)
    (hlength : starts.length = k.s) (hstarts : ∀ r ∈ starts, classifyAwait k.err r = .inBand) :
    decodeAttempt k (lost ++ (starts ++ rs)) = readLoop k 0 0#24 (lost.length + k.s) rs := by
  obtain ⟨-, hs, -, -⟩ := wellFormedDec_iff.mp hwf
  have hpreamble : budgetAtLeast (0 + lost.length) k.startTries := budgetAtLeast_mono (by omega) hbudget
  rw [← hlength] at hbudget ⊢
  rw [decodeAttempt, awaitLoop_lost 0 _ hpreamble hlost hpolicy, Nat.zero_add,
    awaitLoop_starts _ _ hbudget hs (by omega) hstarts]

/-- Nominal preamble readings lie outside the start band (R84, R91). -/
theorem outsideBand_preReadings {ee ed m : Nat} (h : 2 * ee < 5 * ed) :
    ∀ r ∈ preReadings ee m, outsideBand ed r := by
  intro r hr
  rw [List.eq_of_mem_replicate hr, bit0Width, outsideBand, classifyAwait_some_outOfBand.mpr (.inl h)]
  exact AwClass.noConfusion

theorem none_notMem_preReadings (e m : Nat) : none ∉ preReadings e m :=
  fun hmem => nomatch List.eq_of_mem_replicate hmem

@[simp] theorem length_preReadings (e m : Nat) : (preReadings e m).length = m := List.length_replicate

@[simp] theorem length_startReadings (e n : Nat) : (startReadings e n).length = n := List.length_replicate

/-- Where the base units interoperate, nominal start readings lie in the start band (R120). -/
theorem inBand_startReadings {ee ed n : Nat} (h : interoperable ee ed) :
    ∀ r ∈ startReadings ee n, classifyAwait ed r = .inBand := by
  intro r hr
  rw [List.eq_of_mem_replicate hr]
  exact classifyAwait_some_inBand.mpr h

/-- A base unit interoperates with itself (R120). -/
theorem interoperable_self (e : Nat) : interoperable e e := ⟨by omega, by omega⟩

/-- Settles O55: the preamble lies outside the start band. -/
theorem preambleTolerance : Obligations.PreambleTolerance := by
  intro k m starts rs hwf hbudget hlength hstarts
  obtain ⟨herr, -⟩ := wellFormedDec_iff.mp hwf
  rw [List.append_assoc, decodeAttempt_sync rs hwf ?budget (outsideBand_preReadings (by omega))
    (.inr (none_notMem_preReadings _ _)) hlength hstarts, length_preReadings]
  case budget => rw [length_preReadings]; exact hbudget

/-! ### An attempt that receives a frame -/

/-- After readings outside the start band, the start sequence and the frame of an encoder whose base unit interoperates
are received, within the budget (R187, R191). -/
theorem decodeAttempt_sentFrame {ee : Nat} {kd : DecConfig} {lost : List Reading} (fw : Frame24) (rs : List Reading)
    (hkd : wellFormedDec kd = true) (hunits : interoperable ee kd.err)
    (hbudget : budgetAtLeast (lost.length + kd.s) kd.startTries) (hlost : ∀ r ∈ lost, outsideBand kd.err r)
    (hpolicy : kd.awaitTimeoutEnds = false ∨ none ∉ lost) :
    decodeAttempt kd (lost ++ (startReadings ee kd.s ++ (frameReadings ee fw ++ rs))) =
      .result (frameResult fw) (lost.length + kd.s + 24) := by
  obtain ⟨hed, -⟩ := wellFormedDec_iff.mp hkd
  exact decodeAttempt_frame rs hkd hbudget hlost hpolicy (length_startReadings _ _) (inBand_startReadings hunits)
    fun j _ => readBit?_bitReading hed hunits (frameBit fw j)

/-- The same with nothing before the start sequence. -/
theorem decodeAttempt_sentFrame_first {ee : Nat} {kd : DecConfig} (fw : Frame24) (rs : List Reading)
    (hkd : wellFormedDec kd = true) (hunits : interoperable ee kd.err) (hbudget : budgetAtLeast kd.s kd.startTries) :
    decodeAttempt kd (startReadings ee kd.s ++ (frameReadings ee fw ++ rs)) =
      .result (frameResult fw) (kd.s + 24) := by
  have h := decodeAttempt_sentFrame (lost := []) fw rs hkd hunits (by simpa using hbudget) (by simp) (by simp)
  simpa using h

/-- Settles O50: the first attempt on a telegram. -/
theorem roundTrip : Obligations.RoundTrip :=
  fun _ _ c n hke hkd hunits hs hbudget => decodeAttempt_telegram c n hke hkd hunits hs hbudget

/-- Settles O52: a frame is reported by its fields, at the decoder's own base unit. -/
theorem inverseCheck : Obligations.InverseCheck := by
  intro k a c i rs hwf hbudget
  rw [List.append_assoc, decodeAttempt_sentFrame_first (packFrame a c i) rs hwf (interoperable_self k.err) hbudget,
    frameResult_packFrame]

/-- Settles O58: the lost readings use up reads, and the frame after them is received. -/
theorem aCorruptedRepetitionCostsOnlyItself : Obligations.ACorruptedRepetitionCostsOnlyItself := by
  intro ke kd c lost rs _ hkd hunits hs hlost hpolicy hbudget
  rw [← hs] at hbudget ⊢
  rw [List.append_assoc, List.append_assoc,
    decodeAttempt_sentFrame (frameWordOf ke.addr c) rs hkd hunits hbudget hlost hpolicy, frameResult_frameWordOf]

theorem repeated_add {α : Type} (m n : Nat) (l : List α) : repeated (m + n) l = repeated m l ++ repeated n l := by
  induction m with
  | zero => rw [Nat.zero_add]; rfl
  | succ m ih => rw [Nat.succ_add, repeated, repeated, ih, List.append_assoc]

/-- After j of the copies of a list, the others are left. -/
theorem drop_repeated_append {α : Type} (j m : Nat) (l rs : List α) :
    (repeated (j + m) l ++ rs).drop (j * l.length) = repeated m l ++ rs := by
  rw [repeated_add, List.append_assoc]
  exact List.drop_left' (length_repeated j l)

@[simp] theorem length_frameReadings (e : Nat) (fw : Frame24) : (frameReadings e fw).length = 24 := by
  simp [frameReadings]

/-- The readings of a telegram from repetition j on begin with the start sequence and the frame of that repetition. -/
theorem drop_idealReadings_telegram {k : EncConfig} (c : Byte) (n : Nat) {j : Nat} (hj : j < k.r) :
    ∃ rs, (idealReadings (telegram k c) n).drop (k.p + j * (k.s + 24)) =
      startReadings k.err k.s ++ (frameReadings k.err (frameWordOf k.addr c) ++ rs) := by
  obtain ⟨m, hm⟩ := Nat.exists_eq_add_of_lt hj
  have hrest := drop_repeated_append j (m + 1)
    (startReadings k.err k.s ++ frameReadings k.err (frameWordOf k.addr c)) (List.replicate n none)
  rw [List.length_append, length_startReadings, length_frameReadings] at hrest
  rw [idealReadingsOfATelegram k c n, List.append_assoc, ← List.drop_drop, List.drop_left' (length_preReadings _ _), hm,
    Nat.add_assoc, hrest, repeated, List.append_assoc, List.append_assoc]
  exact ⟨_, rfl⟩

/-- Settles O57: an attempt that begins at a repetition has only its start sequence before the frame. -/
theorem everyLaterRepetitionIsReceived : Obligations.EveryLaterRepetitionIsReceived := by
  intro ke kd c n j _ hkd hunits hs hbudget _ hj
  obtain ⟨rs, hrs⟩ := drop_idealReadings_telegram c n hj
  rw [← hs] at hbudget hrs ⊢
  rw [hrs, decodeAttempt_sentFrame_first _ rs hkd hunits (budgetAtLeast_mono (by omega) hbudget),
    frameResult_frameWordOf]

/-! ### An attempt that is cut short -/

/-- Fewer than 24 bits are collected, and ReadingBits goes on (R176). -/
theorem readLoop_bits {k : DecConfig} {bits : List Reading} {n : Nat} (acc : Frame24) (used : Nat) (rs : List Reading)
    (hn : n + bits.length < 24) (hbits : ∀ r ∈ bits, ∃ b, readBit? k.err r = some b) :
    ∃ acc', readLoop k n acc used (bits ++ rs) = readLoop k (n + bits.length) acc' (used + bits.length) rs := by
  induction bits generalizing n acc used with
  | nil => exact ⟨acc, rfl⟩
  | cons r bits ih =>
    obtain ⟨⟨b, hb⟩, hbits⟩ := List.forall_mem_cons.mp hbits
    rw [List.length_cons] at hn ⊢
    obtain ⟨acc', h⟩ := ih (n := n + 1) (shiftIn acc b) (used + 1) (by omega) hbits
    refine ⟨acc', ?_⟩
    rw [List.cons_append, readLoop_bit _ _ _ _ hb, if_neg (by omega), h]
    congr 1 <;> omega

/-- Settles O53: the bits are collected, and the timeout after them aborts. -/
theorem truncationIsIncomplete : Obligations.TruncationIsIncomplete := by
  intro k starts bits rs hwf hbudget hlength hstarts hshort hbits
  have hsync := decodeAttempt_sync (lost := []) (bits ++ none :: rs) hwf (by simpa using hbudget) (by simp) (by simp)
    hlength hstarts
  obtain ⟨acc, hcollected⟩ := readLoop_bits (n := 0) 0#24 (0 + k.s) (none :: rs) (by omega) hbits
  rw [List.nil_append, List.length_nil, hcollected, readLoop_noBit _ _ _ _ rfl, Nat.zero_add] at hsync
  rw [List.append_assoc, hsync]

/-- Settles O54: the readings only use up reads, until the budget is spent or the answers listed end. -/
theorem noStartOutsideTheBand : Obligations.NoStartOutsideTheBand := by
  intro k rs hrs hpolicy
  refine ⟨fun n hn hle => ?finite, fun hinfinite => ?infinite⟩
  case finite =>
    have hlength : (rs.take n).length = n := List.length_take_of_le hle
    have hmem (r : Reading) (hr : r ∈ rs.take n) : r ∈ rs := List.mem_of_mem_take hr
    have hspend := awaitLoop_lost (lost := rs.take n) 0 (rs.drop n) (by rw [hn, hlength, Nat.zero_add]; exact le_rfl)
      (fun r hr => hrs r (hmem r hr)) (hpolicy.imp_right fun h hnone => h (hmem _ hnone))
    rw [List.take_append_drop, hlength, Nat.zero_add] at hspend
    rw [decodeAttempt, hspend, awaitLoop_spent _ _ (compareBudget_eq.mpr hn)]
  case infinite =>
    have hlisted := awaitLoop_lost 0 [] (by rw [hinfinite]; trivial) hrs hpolicy
    rw [List.append_nil] at hlisted
    rw [decodeAttempt, hlisted, awaitLoop, hinfinite]
    rfl

/-! ### A start-count mismatch -/

/-- The attempt has not left AwaitStart: it is still going, or it has reported NoStart (R190, R193). -/
def NotSynced (a : Attempt) : Prop := a = .pending ∨ ∃ used, a = .result .noStart used

/-- From a count of sc, AwaitStart does not synchronise on the answers rs, however much of the budget is left. -/
def NeverSyncs (k : DecConfig) (sc : Nat) (rs : List Reading) : Prop :=
  ∀ tries, compareBudget tries k.startTries ≠ .gt → NotSynced (awaitLoop k sc tries rs)

/-- It is enough to look at the answers while there are reads left: a spent budget ends AwaitStart with NoStart. -/
theorem neverSyncs_of_left {k : DecConfig} {sc : Nat} {rs : List Reading}
    (h : ∀ tries, compareBudget tries k.startTries = .lt → NotSynced (awaitLoop k sc tries rs)) :
    NeverSyncs k sc rs := by
  intro tries htries
  cases hguard : compareBudget tries k.startTries with
  | lt => exact h tries hguard
  | eq => exact .inr ⟨tries, awaitLoop_spent sc rs hguard⟩
  | gt => exact absurd hguard htries

theorem neverSyncs_nil (k : DecConfig) (sc : Nat) : NeverSyncs k sc [] :=
  neverSyncs_of_left fun tries hleft => .inl (by simp [awaitLoop, hleft])

/-- A reading outside the start band starts the count again, or ends AwaitStart with NoStart (R174). -/
theorem neverSyncs_outsideBand {k : DecConfig} {r : Reading} {rs : List Reading} (sc : Nat)
    (hr : outsideBand k.err r) (hrest : NeverSyncs k 0 rs) : NeverSyncs k sc (r :: rs) := by
  refine neverSyncs_of_left fun tries hleft => ?_
  by_cases hpolicy : k.awaitTimeoutEnds = false ∨ r ≠ none
  · rw [awaitLoop_outsideBand sc rs hleft hr hpolicy]
    exact hrest _ (compareBudget_succ_ne_gt hleft)
  · obtain ⟨hends, rfl⟩ : k.awaitTimeoutEnds = true ∧ r = none := by simpa using hpolicy
    exact .inr ⟨_, awaitLoop_timeoutEnds sc rs hleft hends⟩

/-- A start pulse that is not the last one wanted is only counted (R174). -/
theorem neverSyncs_inBand {k : DecConfig} {r : Reading} {rs : List Reading} {sc : Nat}
    (hr : classifyAwait k.err r = .inBand) (hsc : sc + 1 < k.s) (hrest : NeverSyncs k (sc + 1) rs) :
    NeverSyncs k sc (r :: rs) := by
  refine neverSyncs_of_left fun tries hleft => ?_
  rw [awaitLoop_inBand sc rs hleft hr, if_neg hsc.ne]
  exact hrest _ (compareBudget_succ_ne_gt hleft)

/-- Readings outside the start band before answers that do not synchronise. -/
theorem neverSyncs_lost {k : DecConfig} {lost rs : List Reading} (hlost : ∀ r ∈ lost, outsideBand k.err r)
    (hrest : NeverSyncs k 0 rs) : NeverSyncs k 0 (lost ++ rs) := by
  induction lost with
  | nil => exact hrest
  | cons r lost ih =>
    obtain ⟨hr, hlost⟩ := List.forall_mem_cons.mp hlost
    exact neverSyncs_outsideBand 0 hr (ih hlost)

/-- Too few start pulses before answers that do not synchronise. -/
theorem neverSyncs_starts {k : DecConfig} {starts rs : List Reading} {sc : Nat}
    (hstarts : ∀ r ∈ starts, classifyAwait k.err r = .inBand) (hfew : sc + starts.length < k.s)
    (hrest : NeverSyncs k (sc + starts.length) rs) : NeverSyncs k sc (starts ++ rs) := by
  induction starts generalizing sc with
  | nil => exact hrest
  | cons r starts ih =>
    obtain ⟨hr, hstarts⟩ := List.forall_mem_cons.mp hstarts
    have hlength : sc + (r :: starts).length = sc + 1 + starts.length := by rw [List.length_cons]; omega
    rw [hlength] at hfew hrest
    exact neverSyncs_inBand hr (by omega) (ih hstarts hfew hrest)

/-- At matched base units the readings of a frame lie outside the start band (R91, R119). -/
theorem outsideBand_frameReadings {e : Nat} (he : 1 ≤ e) (fw : Frame24) :
    ∀ r ∈ frameReadings e fw, outsideBand e r := by
  intro r hr
  obtain ⟨j, -, rfl⟩ := List.mem_map.mp hr
  have hwidth : bitWidth e (frameBit fw j) < 5 * e := by rw [bitWidth_eq_mul]; split <;> omega
  rw [bitReading, outsideBand, classifyAwait_some_outOfBand.mpr (.inl hwidth)]
  exact AwClass.noConfusion

/-- A frame begins with a reading outside the start band, so it starts the count again. -/
theorem neverSyncs_frame {k : DecConfig} {rs : List Reading} (he : 1 ≤ k.err) (sc : Nat) (fw : Frame24)
    (hrest : NeverSyncs k 0 rs) : NeverSyncs k sc (frameReadings k.err fw ++ rs) := by
  have hout := outsideBand_frameReadings he fw
  obtain ⟨r, bits, hcons⟩ := List.exists_cons_of_length_pos (l := frameReadings k.err fw) (by simp)
  rw [hcons] at hout ⊢
  obtain ⟨hr, hbits⟩ := List.forall_mem_cons.mp hout
  exact neverSyncs_outsideBand sc hr (neverSyncs_lost hbits hrest)

/-- Repetitions with fewer start pulses than are wanted do not synchronise (R193). -/
theorem neverSyncs_repetitions {k : DecConfig} {s : Nat} {rs : List Reading} (he : 1 ≤ k.err) (hs : s < k.s)
    (fw : Frame24) (n : Nat) (hrest : NeverSyncs k 0 rs) :
    NeverSyncs k 0 (repeated n (startReadings k.err s ++ frameReadings k.err fw) ++ rs) := by
  induction n with
  | zero => exact hrest
  | succ n ih =>
    rw [repeated, List.append_assoc, List.append_assoc]
    exact neverSyncs_starts (inBand_startReadings (interoperable_self _)) (by simpa using hs)
      (neverSyncs_frame he _ fw ih)

/-- At matched base units, a decoder that wants more start pulses than the encoder sends never synchronises (R193). -/
theorem neverSyncs_telegram {ke : EncConfig} {kd : DecConfig} (c : Byte) (n : Nat) (he : 1 ≤ kd.err)
    (herr : kd.err = ke.err) (hs : ke.s < kd.s) : NeverSyncs kd 0 (idealReadings (telegram ke c) n) := by
  have hnone : ∀ r ∈ List.replicate n (none : Reading), outsideBand kd.err r := by
    intro r hr
    rw [List.eq_of_mem_replicate hr]
    exact AwClass.noConfusion
  have hsilence := neverSyncs_lost hnone (neverSyncs_nil kd 0)
  rw [List.append_nil] at hsilence
  rw [idealReadingsOfATelegram ke c n, ← herr, List.append_assoc]
  exact neverSyncs_lost (outsideBand_preReadings (by omega))
    (neverSyncs_repetitions he hs (frameWordOf ke.addr c) ke.r hsilence)

/-- A start pulse gives no bit at its own base unit (R92). -/
theorem readBit?_startReading {e : Nat} (he : 1 ≤ e) : readBit? e (some (startWidth e)) = none :=
  readBit?_eq_none_of_outside (.inr ⟨_, rfl, .inr (Nat.mul_lt_mul_of_pos_right (by omega) he)⟩)

/-- Of m start readings, the first n and the one after them. -/
theorem startReadings_split (e : Nat) {n m : Nat} (h : n < m) :
    startReadings e m = startReadings e n ++ some (startWidth e) :: startReadings e (m - (n + 1)) := by
  rw [startReadings, startReadings, startReadings, ← List.replicate_succ, List.replicate_append_replicate]
  congr 1
  omega

/-- At matched base units, a decoder that wants fewer start pulses than the encoder sends aborts on the next one
(R193). -/
theorem decodeAttempt_surplusStart {ke : EncConfig} {kd : DecConfig} (c : Byte) (n : Nat)
    (hke : wellFormedEnc ke = true) (hkd : wellFormedDec kd = true) (herr : kd.err = ke.err) (hs : kd.s < ke.s)
    (hbudget : budgetAtLeast (ke.p + kd.s) kd.startTries) :
    decodeAttempt kd (idealReadings (telegram ke c) n) = .result .incomplete (ke.p + kd.s + 1) := by
  obtain ⟨-, -, hr, -⟩ := wellFormedEnc_iff.mp hke
  obtain ⟨he, -⟩ := wellFormedDec_iff.mp hkd
  obtain ⟨rs, hrs⟩ := idealReadings_telegram_eq c n hr
  rw [hrs, ← herr, startReadings_split kd.err hs, List.append_assoc, ← List.append_assoc,
    preambleTolerance kd ke.p _ _ hkd hbudget (length_startReadings _ _) (inBand_startReadings (interoperable_self _))]
  exact readLoop_noBit _ _ _ _ (readBit?_startReading he)

/-- Settles O56: a surplus start pulse aborts, and with start pulses missing no repetition synchronises. -/
theorem startCountMismatch : Obligations.StartCountMismatch := by
  intro ke kd c n hke hkd herr
  obtain ⟨he, -⟩ := wellFormedDec_iff.mp hkd
  exact ⟨fun hs hbudget => decodeAttempt_surplusStart c n hke hkd herr hs hbudget,
    fun hs => neverSyncs_telegram c n he herr hs 0 (compareBudget_zero_ne_gt _)⟩

/-! ### The attempt in the machine -/

/-- From s, moves of the decoder read every answer listed, and at t the attempt is still in progress. -/
structure AttemptGoesOn (s t : State) : Prop where
  run : ∃ m, DecoderRun m s t
  busy : decBusy t = true
  answers : t.answers = []
  work : DecoderWork s t

/-- An attempt that waits for an answer that is not listed. -/
theorem attemptGoesOn_of_busy {s : State} (hbusy : decBusy s = true) (hanswers : s.answers = []) : AttemptGoesOn s s :=
  ⟨⟨0, .refl s⟩, hbusy, hanswers, rfl, rfl, rfl⟩

/-- Moves of the decoder may come before. -/
theorem AttemptGoesOn.of_run {s u t : State} {m : Nat} (h : AttemptGoesOn u t) (hrun : DecoderRun m s u)
    (hwork : DecoderWork s u) : AttemptGoesOn s t where
  run := by
    obtain ⟨n, hn⟩ := h.run
    exact ⟨m + n, hrun.trans hn⟩
  busy := h.busy
  answers := h.answers
  work := hwork.trans h.work

/-- From ReadingBits the machine follows a loop of decode(rs) that does not end (R185). -/
theorem attemptGoesOn_of_readLoop {rs : List Reading} {s : State} {used : Nat} (hst : s.dec.st = .read)
    (hrs : s.answers = rs) (hloop : readLoop s.cfg.dec s.dec.n s.dec.acc used rs = .pending) :
    ∃ t, AttemptGoesOn s t := by
  induction rs generalizing s used with
  | nil => exact ⟨s, attemptGoesOn_of_busy (decBusy_of_st hst) hrs⟩
  | cons r rs ih =>
    have hread : ReadsOne s r (readBitStep s) := readsOne_readBitStep hrs hst
    have hrest : (readBitStep s).answers = rs := List.tail_eq_of_cons_eq (hread.answers.symm.trans hrs)
    rw [← nextAnswer_cons hrs] at hloop
    cases hbit : readBit? s.cfg.dec.err (nextAnswer s) with
    | none => rw [readLoop_noBit _ _ _ _ hbit] at hloop; cases hloop
    | some b =>
      have hdec := readBitStep_bit_dec hbit
      rw [readLoop_bit _ _ _ _ hbit] at hloop
      split at hloop
      · cases hloop
      · next hmore =>
        rw [if_neg hmore] at hdec
        obtain ⟨t, hgoes⟩ := ih (s := readBitStep s) (by rw [hdec]; exact hst) hrest
          (by rw [hread.work.cfg, hdec]; exact hloop)
        exact ⟨t, hgoes.of_run hread.run hread.work⟩

/-- From AwaitStart the machine follows a loop of decode(rs) that does not end (R185). -/
theorem attemptGoesOn_of_awaitLoop {rs : List Reading} {s : State} (hst : s.dec.st = .await) (htries : TriesOk s)
    (hrs : s.answers = rs) (hloop : awaitLoop s.cfg.dec s.dec.sc s.dec.tries rs = .pending) :
    ∃ t, AttemptGoesOn s t := by
  induction rs generalizing s with
  | nil => exact ⟨s, attemptGoesOn_of_busy (decBusy_of_st hst) hrs⟩
  | cons r rs ih =>
    cases hguard : triesGuard s with
    | gt => exact absurd hguard htries
    | eq => rw [awaitLoop_spent _ _ hguard] at hloop; cases hloop
    | lt =>
      have hread : ReadsOne s r (awaitRead s) := readsOne_awaitRead hrs hst hguard
      have hrest : (awaitRead s).answers = rs := List.tail_eq_of_cons_eq (hread.answers.symm.trans hrs)
      have hcfg : (awaitRead s).cfg = s.cfg := hread.work.cfg
      have hgoes (n : Nat) (hdec : (awaitRead s).dec = { s.dec with tries := s.dec.tries + 1, sc := n })
          (hloop : awaitLoop s.cfg.dec n (s.dec.tries + 1) rs = .pending) : ∃ t, AttemptGoesOn s t := by
        obtain ⟨t, hgoes⟩ := ih (s := awaitRead s) (by rw [hdec]; exact hst)
          (by rw [TriesOk, hcfg, hdec]; exact compareBudget_succ_ne_gt hguard) hrest (by rw [hcfg, hdec]; exact hloop)
        exact ⟨t, hgoes.of_run hread.run hread.work⟩
      rw [← nextAnswer_cons hrs] at hloop
      by_cases hin : classifyAwait s.cfg.dec.err (nextAnswer s) = .inBand
      · have hdec := awaitRead_inBand_dec hin
        rw [awaitLoop_inBand _ _ hguard hin] at hloop
        split at hloop
        · next hlast =>
          rw [if_pos hlast] at hdec
          have hsynced : (awaitRead s).dec.st = .synced := by rw [hdec]
          obtain ⟨t, hgoes⟩ := attemptGoesOn_of_readLoop (s := guardWait (awaitRead s)) rfl hrest
            (by rw [← hcfg] at hloop; exact hloop)
          exact ⟨t, (hgoes.of_run (decoderRun_guardWait hsynced) ⟨rfl, rfl, rfl⟩).of_run hread.run hread.work⟩
        · next hmore =>
          rw [if_neg hmore] at hdec
          exact hgoes _ hdec hloop
      · by_cases hpolicy : s.cfg.dec.awaitTimeoutEnds = false ∨ nextAnswer s ≠ none
        · rw [awaitLoop_outsideBand _ _ hguard hin hpolicy] at hloop
          exact hgoes 0 (awaitRead_outsideBand_dec hin hpolicy) hloop
        · obtain ⟨hends, hnone⟩ : s.cfg.dec.awaitTimeoutEnds = true ∧ nextAnswer s = none := by
            simpa using hpolicy
          rw [hnone, awaitLoop_timeoutEnds _ _ hguard hends] at hloop
          cases hloop

/-- A listed receiveFrame() at a decoder at rest begins an attempt (R171). -/
theorem step_of_accepted_receive {s : State} (evs : List Event) (hrest : decBusy s = false)
    (hwf : wellFormedDec s.cfg.dec = true) :
    step { s with events := .move (.host .receive) :: evs } = .next { startAttempt s with events := evs } :=
  (step_of_receive_request rfl).trans
    (congrArg Host.Outcome.next (requestReceive_accepted (s := { s with events := evs }) hrest hwf))

/-- Settles O49: the machine follows decode(rs) to its result, or through every answer listed where it has none. -/
theorem anAttemptReportsDecode : Obligations.AnAttemptReportsDecode := by
  intro s rs hrest hwf
  refine ⟨fun x used hattempt => ?ends, fun hattempt => ?goesOn⟩
  case ends =>
    obtain ⟨m, t, hends, hrun⟩ := run_receive (s := { s with answers := rs }) hrest hwf hattempt
    exact ⟨m, { t with events := s.events }, hrun s.events, hends.done, hends.res, hends.answers, hends.read,
      hends.work.enc, hends.work.faults⟩
  case goesOn =>
    obtain ⟨t, hgoes⟩ := attemptGoesOn_of_awaitLoop (s := startAttempt { s with answers := rs }) rfl
      (compareBudget_zero_ne_gt _) rfl hattempt
    obtain ⟨m, hm⟩ := hgoes.run
    exact ⟨m, { t with events := s.events },
      (run_succ m (step_of_accepted_receive (s := { s with answers := rs }) _ hrest hwf)).trans (hm s.events),
      hgoes.busy, hgoes.answers, hgoes.work.enc, hgoes.work.faults⟩

end Sys2Proof.Machine
end

section
/-! PROOFS. The exceptions family (60_exceptions.md), what an operation does not read: an operation of one unit does the
same whatever the other unit's state is (R225) and whatever the fault record holds (R220), and no operation is fatal
(R222, R223). -/

namespace Sys2Proof.Machine

/-! ### Nothing is fatal -/

/-- Settles O36, row by row: a row under a selector answers a next state or is refused, and so do the others. -/
theorem noOperationIsFatal : Obligations.NoOperationIsFatal := by
  intro i s f
  cases i with
  | transmit | receive | reset => exact nofun
  | txkey k => cases hk : registryOf s.cfg.enc.registry k <;> simp [exec, execTxkey, hk]
  | noStart => cases hg : triesGuard s <;> simp [exec, execNoStart, hg]
  | frameWord side => cases side <;> exact whenSelected_not_fault
  | _ => exact whenSelected_not_fault

/-! ### Two fault records in one -/

/-- The fault record that holds the names of both. -/
def joinFaults (f g : FaultRecord) : FaultRecord where
  illFormedConfig := f.illFormedConfig || g.illFormedConfig
  overlappingTransmit := f.overlappingTransmit || g.overlappingTransmit
  overlappingReceive := f.overlappingReceive || g.overlappingReceive

@[simp] theorem joinFaults_recorded (f g : FaultRecord) (x : FaultName) :
    faultRecorded (joinFaults f g) x = (faultRecorded f x || faultRecorded g x) := by
  cases x <;> rfl

@[simp] theorem none_recorded (x : FaultName) : faultRecorded FaultRecord.none x = false := by
  cases x <;> rfl

theorem joinFaults_comm (f g : FaultRecord) : joinFaults f g = joinFaults g f :=
  faultRecord_ext fun x => by simp [Bool.or_comm]

theorem none_joinFaults (f : FaultRecord) : joinFaults FaultRecord.none f = f :=
  faultRecord_ext fun x => by simp

/-- A record joined to one that holds all its names adds nothing. -/
theorem joinFaults_eq_right {f g : FaultRecord} (h : ∀ x, faultRecorded f x = true → faultRecorded g x = true) :
    joinFaults f g = g :=
  faultRecord_ext fun x => by simpa using h x

theorem recordFault_joinFaults (f g : FaultRecord) (x : FaultName) :
    recordFault (joinFaults f g) x = joinFaults (recordFault f x) g :=
  faultRecord_ext fun y => by simp [Bool.or_right_comm]

/-! ### A change that an instruction does not see -/

/-- The outcome with its next state, if it has one, changed by F. -/
def mapNext (F : State → State) : Host.Outcome State Fault Refusal → Host.Outcome State Fault Refusal
  | .next t => .next (F t)
  | .fault f => .fault f
  | .refused r => .refused r

theorem mapNext_eq_refused {F : State → State} {o : Host.Outcome State Fault Refusal} {r : Refusal} :
    mapNext F o = .refused r ↔ o = .refused r := by
  cases o <;> simp [mapNext]

/-- The instruction i neither reads what F changes nor undoes it: on a changed state it does the same, to the changed
state. -/
def Ignores (i : Instr) (F : State → State) : Prop := ∀ s, exec i (F s) = mapNext F (exec i s)

/-- A row under a selector ignores a change that its selector and its operation do. -/
theorem mapNext_whenSelected {g : Prop} [Decidable g] {F : State → State} {t u : State} (h : u = F t) :
    whenSelected g u = mapNext F (whenSelected g t) := by
  subst h
  unfold whenSelected
  split <;> rfl

/-! ### Operations of the decoder and the encoder's state -/

/-- A change of the encoder's registers and record, and names to add to the fault record. -/
structure EncoderChange where
  enc : EncState → EncState
  encLog : List EncAction → List EncAction
  faults : FaultRecord

/-- The changed state. -/
def EncoderChange.apply (c : EncoderChange) (s : State) : State :=
  { s with enc := c.enc s.enc, encLog := c.encLog s.encLog, faults := joinFaults s.faults c.faults }

namespace EncoderChange

variable (c : EncoderChange) (s : State)

theorem raiseFault_apply (x : FaultName) : raiseFault x (c.apply s) = c.apply (raiseFault x s) := by
  simp only [raiseFault, apply, recordFault_joinFaults]

theorem requestReceive_apply : requestReceive (c.apply s) = c.apply (requestReceive s) := by
  have hbusy : decBusy (c.apply s) = decBusy s := rfl
  have hcfg : (c.apply s).cfg = s.cfg := rfl
  have hstart : startAttempt (c.apply s) = c.apply (startAttempt s) := rfl
  simp only [requestReceive, hbusy, hcfg, hstart, raiseFault_apply, apply_ite c.apply]

theorem measurePulse_apply (timeout : Nat) : measurePulse timeout (c.apply s) = c.apply (measurePulse timeout s) := by
  cases h : s.answers <;> simp [measurePulse, dropAnswer, nextAnswer, apply, logDec, h]

theorem awaitMeasure_apply : awaitMeasure (c.apply s) = c.apply (awaitMeasure s) := by
  have hcfg : (c.apply s).cfg = s.cfg := rfl
  simp only [awaitMeasure, hcfg, measurePulse_apply]
  rfl

theorem bitMeasure_apply : bitMeasure (c.apply s) = c.apply (bitMeasure s) := measurePulse_apply c s _

theorem onAwTimeout_apply : onAwTimeout (c.apply s) = c.apply (onAwTimeout s) := by
  simp only [onAwTimeout, apply_ite c.apply]
  rfl

theorem onBit_apply (b : Bool) : onBit b (c.apply s) = c.apply (onBit b s) := by
  simp only [onBit, apply_ite c.apply]
  rfl

theorem awaitRead_apply : awaitRead (c.apply s) = c.apply (awaitRead s) := by
  have hread : classifyAwait (c.apply s).cfg.dec.err (nextAnswer (c.apply s)) =
      classifyAwait s.cfg.dec.err (nextAnswer s) := rfl
  simp only [awaitRead, hread, awaitMeasure_apply]
  cases classifyAwait s.cfg.dec.err (nextAnswer s) with
  | inBand | outOfBand => rfl
  | timeout => exact onAwTimeout_apply c _

theorem readBitStep_apply : readBitStep (c.apply s) = c.apply (readBitStep s) := by
  have hread : classifyRead (c.apply s).cfg.dec.err (nextAnswer (c.apply s)) =
      classifyRead s.cfg.dec.err (nextAnswer s) := rfl
  simp only [readBitStep, hread, bitMeasure_apply]
  cases classifyRead s.cfg.dec.err (nextAnswer s) with
  | timeout | abortShort | abortLong => rfl
  | one | zero => exact onBit_apply c _ _

end EncoderChange

/-- The decoder's instructions read no encoder state and no fault record (R170, R220). -/
theorem ignores_encoderChange {i : Instr} (hi : actsOnEncoder i = false) (c : EncoderChange) : Ignores i c.apply := by
  intro s
  cases i with
  | receive => exact congrArg Host.Outcome.next (c.requestReceive_apply s)
  | dNostart | dGuard | empty => exact mapNext_whenSelected rfl
  | dAwaitRead => exact mapNext_whenSelected (c.awaitRead_apply s)
  | awIn | awOut => exact mapNext_whenSelected (by rw [c.awaitMeasure_apply]; rfl)
  | awTimeout => exact mapNext_whenSelected (by rw [c.awaitMeasure_apply, c.onAwTimeout_apply])
  | dReadBit | frameValidTrue | frameValidFalse => exact mapNext_whenSelected (c.readBitStep_apply s)
  | rbTimeout | rbAbortShort | rbAbortLong | incomplete =>
    exact mapNext_whenSelected (by rw [c.bitMeasure_apply]; rfl)
  | rbOne | rbZero => exact mapNext_whenSelected (by rw [c.bitMeasure_apply, c.onBit_apply])
  | frameWord side =>
    cases side with
    | encoder => cases hi
    | decoder => exact mapNext_whenSelected (c.readBitStep_apply s)
  | noStart =>
    have hguard : triesGuard (c.apply s) = triesGuard s := rfl
    simp only [exec, execNoStart, hguard]
    cases triesGuard s with
    | eq => exact mapNext_whenSelected rfl
    | lt => exact mapNext_whenSelected (by rw [c.awaitMeasure_apply]; rfl)
    | gt => rfl
  | _ => cases hi

/-! ### Operations of the encoder and the decoder's state -/

/-- A change of the decoder's registers, record and channel, and names to add to the fault record. -/
structure DecoderChange where
  dec : DecState → DecState
  decLog : List DecAction → List DecAction
  answers : List Reading → List Reading
  freeReads : Nat → Nat
  faults : FaultRecord

/-- The changed state. -/
def DecoderChange.apply (c : DecoderChange) (s : State) : State :=
  { s with
    dec := c.dec s.dec
    decLog := c.decLog s.decLog
    answers := c.answers s.answers
    freeReads := c.freeReads s.freeReads
    faults := joinFaults s.faults c.faults }

namespace DecoderChange

variable (c : DecoderChange) (s : State)

theorem raiseFault_apply (x : FaultName) : raiseFault x (c.apply s) = c.apply (raiseFault x s) := by
  simp only [raiseFault, apply, recordFault_joinFaults]

theorem requestTransmit_apply (b : Byte) : requestTransmit b (c.apply s) = c.apply (requestTransmit b s) := by
  have hbusy : encBusy (c.apply s) = encBusy s := rfl
  have hcfg : (c.apply s).cfg = s.cfg := rfl
  have hstart : startTelegram b (c.apply s) = c.apply (startTelegram b s) := rfl
  simp only [requestTransmit, hbusy, hcfg, hstart, raiseFault_apply, apply_ite c.apply]

end DecoderChange

/-- The encoder's instructions read no decoder state and no fault record (R170, R220). -/
theorem ignores_decoderChange {i : Instr} (hi : actsOnDecoder i = false) (c : DecoderChange) : Ignores i c.apply := by
  intro s
  obtain ⟨hreset, hencoder⟩ := actsOnDecoder_eq_false.mp hi
  cases i with
  | transmit b => exact congrArg Host.Outcome.next (c.requestTransmit_apply s b)
  | txkey k =>
    have hcfg : (c.apply s).cfg = s.cfg := rfl
    simp only [exec, execTxkey, hcfg]
    cases registryOf s.cfg.enc.registry k with
    | none => rfl
    | some b => exact congrArg Host.Outcome.next (c.requestTransmit_apply s b)
  | ePreBurst | ePreSpace | eStartBurst | eStartSpace | eDataBurst | eDataSpace | eStop
  | symZero | symOne | symStart | symPre0 | symStop => exact mapNext_whenSelected rfl
  | frameWord side =>
    cases side with
    | encoder => exact mapNext_whenSelected rfl
    | decoder => cases hencoder
  | reset => exact absurd rfl hreset
  | _ => cases hencoder

/-! ### The fault record is not read -/

/-- Names added to the fault record, and nothing else changed. -/
def addFaults (f : FaultRecord) (s : State) : State := { s with faults := joinFaults s.faults f }

/-- No instruction reads the fault record (R220). -/
theorem ignores_addFaults (i : Instr) (f : FaultRecord) : Ignores i (addFaults f) := by
  cases hencoder : actsOnEncoder i with
  | false => exact ignores_encoderChange hencoder ⟨id, id, f⟩
  | true =>
    by_cases hreset : i = .reset
    · subst hreset
      exact fun _ => rfl
    · exact ignores_decoderChange (actsOnDecoder_eq_false.mpr ⟨hreset, hencoder⟩) ⟨id, id, id, id, f⟩

/-- Under a record f an instruction does what it does under the empty record, with the names of f added. -/
theorem exec_withFaults (i : Instr) (s : State) (f : FaultRecord) :
    exec i { s with faults := f } = mapNext (addFaults f) (exec i { s with faults := FaultRecord.none }) := by
  rw [← ignores_addFaults, addFaults, none_joinFaults]

/-- Settles O39: both clauses compare with the run under the empty record. -/
theorem noOperationReadsTheFaultRecord : Obligations.NoOperationReadsTheFaultRecord := by
  refine ⟨fun i s t h f => ⟨joinFaults t.faults f, ?next, fun x => ?names⟩, fun i s f g r h => ?refused⟩
  case next => rw [exec_withFaults, h]; rfl
  case names => rw [joinFaults_recorded, Bool.or_comm]
  case refused =>
    rw [exec_withFaults, mapNext_eq_refused] at h ⊢
    exact h

/-! ### The order of the units -/

/-- No operation begins a free round. -/
theorem effect_freeRounds {s t : State} (h : Effect s t) : t.freeRounds = s.freeRounds := by
  cases h with
  | requestTransmit c => rcases requestTransmit_cases c s with ⟨-, h⟩ | ⟨-, -, h⟩ | ⟨-, -, h⟩ <;> rw [h] <;> rfl
  | requestReceive => rcases requestReceive_cases s with ⟨-, h⟩ | ⟨-, -, h⟩ | ⟨-, -, h⟩ <;> rw [h] <;> rfl
  | awaitRead =>
    rcases awaitRead_cases s with ⟨-, h⟩ | ⟨-, -, h⟩ | ⟨-, -, h⟩ | ⟨-, h⟩ <;> rw [h] <;>
      simp [onAwIn, onAwOut, awaitMeasure]
  | readBitStep =>
    rcases readBitStep_cases s with ⟨-, h⟩ | ⟨b, -, h⟩ <;> rw [h]
    · simp [bitMeasure]
    · by_cases hlast : (bitMeasure s).dec.n + 1 = 24
      · rw [onBit_completes hlast]; simp [complete, bitMeasure]
      · rw [onBit_collects hlast]; simp [bitMeasure]
  | _ => rfl

/-- The names before an operation are among those after it (R50). -/
theorem joinFaults_of_effect {s t : State} (h : Effect s t) : joinFaults s.faults t.faults = t.faults :=
  joinFaults_eq_right fun _ => effect_keeps_recorded h

/-- What takes s to t on the encoder's side. -/
def encoderChangeTo (t : State) : EncoderChange := ⟨fun _ => t.enc, fun _ => t.encLog, t.faults⟩

/-- What takes s to t on the decoder's side. -/
def decoderChangeTo (t : State) : DecoderChange :=
  ⟨fun _ => t.dec, fun _ => t.decLog, fun _ => t.answers, fun _ => t.freeReads, t.faults⟩

/-- An instruction of the encoder does no more than change the encoder's state and add fault names. -/
theorem eq_encoderChange_of_exec {i : Instr} {s t : State} (hi : actsOnDecoder i = false) (h : exec i s = .next t) :
    t = (encoderChangeTo t).apply s := by
  have heff := exec_effect h
  obtain ⟨hdec, hlog, hanswers, hreads⟩ := sameDecoder_of_exec hi h
  simp only [EncoderChange.apply, encoderChangeTo, joinFaults_of_effect heff, ← effect_cfg heff, ← effect_events heff,
    ← effect_freeRounds heff, ← hdec, ← hlog, ← hanswers, ← hreads]

/-- An instruction of the decoder does no more than change the decoder's state and add fault names. -/
theorem eq_decoderChange_of_exec {j : Instr} {s t : State} (hj : actsOnEncoder j = false) (h : exec j s = .next t) :
    t = (decoderChangeTo t).apply s := by
  have heff := exec_effect h
  obtain ⟨henc, hlog⟩ := sameEncoder_of_exec hj h
  simp only [DecoderChange.apply, decoderChangeTo, joinFaults_of_effect heff, ← effect_cfg heff, ← effect_events heff,
    ← effect_freeRounds heff, ← henc, ← hlog]

/-- A change of the encoder's side and one of the decoder's give the same state in either order. -/
theorem EncoderChange.apply_comm (c : EncoderChange) (d : DecoderChange) (s : State) :
    c.apply (d.apply s) = d.apply (c.apply s) := by
  simp only [EncoderChange.apply, DecoderChange.apply, joinFaults, Bool.or_right_comm]

/-- Settles O41: each operation is a change of its own unit's side that the other ignores, and such changes commute. -/
theorem orderOfUnitsChangesNoOutcome : Obligations.OrderOfUnitsChangesNoOutcome := by
  intro i j s s₁ s₂ hi hj h₁ h₂
  have hs₁ := eq_encoderChange_of_exec hi h₁
  have hs₂ := eq_decoderChange_of_exec hj h₂
  refine ⟨(encoderChangeTo s₁).apply s₂, ?decoderLast, ?encoderLast⟩
  case decoderLast =>
    have h := ignores_encoderChange hj (encoderChangeTo s₁) s
    rwa [← hs₁, h₂] at h
  case encoderLast =>
    have h := ignores_decoderChange hi (decoderChangeTo s₂) s
    rw [← hs₂, h₁] at h
    rw [h, mapNext]
    conv_lhs => rw [hs₁, ← EncoderChange.apply_comm, ← hs₂]

end Sys2Proof.Machine
end

section
/-! PROOFS. The exceptions family (60_exceptions.md), what always goes on: a unit that moves has a next state, the moves of
both units keep coming (R241), and an attempt with a finite budget ends (R223). -/

namespace Sys2Proof.Machine

/-! ### The decoder's move -/

/-- What a move of the decoder does: the operation its registers and its guard select, and nothing in a decoder at rest
(R96, R170). A counter past its budget, which TriesOk rules out, selects none. -/
def decoderMove (s : State) : State :=
  match s.dec.st, triesGuard s with
  | .idle, _ => s
  | .await, .eq => budgetSpent s
  | .await, .lt => awaitRead s
  | .await, .gt => s
  | .synced, _ => guardWait s
  | .read, _ => readBitStep s
  | .done, _ => s

/-- Everything a move of the decoder can do. -/
theorem decoderMove_cases {s : State} (h : TriesOk s) :
    ((s.dec.st = .idle ∨ s.dec.st = .done) ∧ decoderMove s = s) ∨
    (s.dec.st = .await ∧ triesGuard s = .eq ∧ decoderMove s = budgetSpent s) ∨
    (s.dec.st = .await ∧ triesGuard s = .lt ∧ decoderMove s = awaitRead s) ∨
    (s.dec.st = .synced ∧ decoderMove s = guardWait s) ∨
    (s.dec.st = .read ∧ decoderMove s = readBitStep s) := by
  have hguard : triesGuard s ≠ .gt := h
  unfold decoderMove
  cases s.dec.st <;> cases hg : triesGuard s <;> simp_all

/-- A listed move of a decoder whose counter is within its budget does what decoderMove says. -/
theorem decoderRun_decoderMove {s : State} (h : TriesOk s) : DecoderRun 1 s (decoderMove s) := by
  rcases decoderMove_cases h with ⟨hst, ht⟩ | ⟨hst, hguard, ht⟩ | ⟨hst, hguard, ht⟩ | ⟨hst, ht⟩ | ⟨hst, ht⟩ <;> rw [ht]
  · exact fun _ => run_succ 0 (step_of_noStep rfl (decodeDecSel_rest _ hst))
  · exact decoderRun_budgetSpent hst hguard
  · exact decoderRun_awaitRead hst hguard
  · exact decoderRun_guardWait hst
  · exact decoderRun_readBitStep hst

theorem decoderWork_decoderMove {s : State} (h : TriesOk s) : DecoderWork s (decoderMove s) := by
  rcases decoderMove_cases h with ⟨-, ht⟩ | ⟨-, -, ht⟩ | ⟨-, -, ht⟩ | ⟨-, ht⟩ | ⟨-, ht⟩ <;> rw [ht]
  · exact ⟨rfl, rfl, rfl⟩
  · exact ⟨rfl, rfl, rfl⟩
  · exact decoderWork_awaitRead s
  · exact ⟨rfl, rfl, rfl⟩
  · exact decoderWork_readBitStep s

theorem triesOk_of_decInv {s : State} (h : DecInv s) : TriesOk s := by
  obtain ⟨-, htries, -⟩ := decInv_bounds h
  exact htries

/-- A good decoder stays good. -/
theorem decInv_decoderMove {s : State} (h : DecInv s) : DecInv (decoderMove s) := by
  rcases decoderMove_cases (triesOk_of_decInv h) with ⟨-, ht⟩ | ⟨hst, hguard, ht⟩ | ⟨hst, hguard, ht⟩ | ⟨hst, ht⟩ |
    ⟨hst, ht⟩ <;> rw [ht]
  · exact h
  · exact effect_decInv (.budgetSpent hst hguard) h
  · exact effect_decInv (.awaitRead hst hguard) h
  · exact effect_decInv (.guardWait hst) h
  · exact effect_decInv (.readBitStep hst) h

/-! ### A unit that moves has a next state -/

theorem run_one (s : State) : run 1 s = step s := by
  rw [run_succ_eq]
  cases step s <;> rfl

/-- In a good state a listed move of the encoder has a next state and adds no fault name (R222). -/
theorem exists_next_of_encoder_move {s : State} {evs : List Event} (h : EncInv s)
    (hev : s.events = .move .encoder :: evs) : ∃ t, step s = .next t ∧ t.faults = s.faults := by
  by_cases hst : s.enc.st = .idle
  · exact ⟨_, step_of_idle_encoder hev hst, rfl⟩
  · obtain ⟨g, hg⟩ := encoderMove_emits (s := { s with events := evs }) h hst
    exact ⟨_, step_encoderMove hev, hg.work.faults⟩

/-- In a good state a listed move of the decoder has a next state and adds no fault name (R222). -/
theorem exists_next_of_decoder_move {s : State} {evs : List Event} (h : DecInv s)
    (hev : s.events = .move .decoder :: evs) : ∃ t, step s = .next t ∧ t.faults = s.faults := by
  have htries := triesOk_of_decInv h
  have hrun := decoderRun_decoderMove htries evs
  rw [run_one, List.replicate_one, List.singleton_append, ← hev] at hrun
  exact ⟨_, hrun, (decoderWork_decoderMove htries).faults⟩

/-- A step of a listed event leaves the events listed after it. -/
theorem step_events_of_listed {s t : State} {ev : Event} {evs : List Event} (hev : s.events = ev :: evs)
    (h : step s = .next t) : t.events = evs := by
  rw [step_events h, dropEvent_cons hev]

/-! ### The moves of both units keep coming -/

/-- A run whose first step answers a next state stops if the rest of it does. -/
theorem stops_of_step {s t : State} (hstep : step s = .next t) (h : Stops t) : Stops s := by
  obtain ⟨k, hk⟩ := h
  rw [← run_succ k hstep] at hk
  exact ⟨k + 1, hk⟩

/-- A move that is next comes. -/
theorem eventuallyMoves_of_nextEvent {m : Move} {s : State} (h : nextEvent s = .move m) : EventuallyMoves m s :=
  .inr ⟨0, s, rfl, h⟩

/-- A move that comes after the first step, wherever that leads, comes. -/
theorem eventuallyMoves_of_step {m : Move} {s : State} (h : ∀ t, step s = .next t → EventuallyMoves m t) :
    EventuallyMoves m s := by
  cases hstep : step s with
  | next t =>
    rcases h t hstep with hstops | ⟨k, u, hrun, hnext⟩
    · exact .inl (stops_of_step hstep hstops)
    · exact .inr ⟨k + 1, u, (run_succ k hstep).trans hrun, hnext⟩
  | fault f => exact .inl ⟨1, .inr ⟨f, (run_one s).trans hstep⟩⟩
  | refused r => exact .inl ⟨1, .inl ⟨r, (run_one s).trans hstep⟩⟩

/-- A listed move comes. -/
theorem eventuallyMoves_of_listed {m : Move} {s : State} (h : .move m ∈ s.events) : EventuallyMoves m s := by
  generalize hl : s.events = l at h
  induction l generalizing s with
  | nil => cases h
  | cons ev evs ih =>
    rcases List.mem_cons.mp h with rfl | hlater
    · exact eventuallyMoves_of_nextEvent (nextEvent_cons hl)
    · exact eventuallyMoves_of_step fun t hstep => ih (step_events_of_listed hl hstep) hlater

/-- A move that stands in every free round comes from every state: the events listed end, and a free round follows
(R241). -/
theorem eventuallyMoves_of_freeEvents {m : Move} (hfree : ∀ n, .move m ∈ freeEvents n) (s : State) :
    EventuallyMoves m s := by
  generalize hl : s.events = l
  induction l generalizing s with
  | nil =>
    have hpending : .move m ∈ nextEvent s :: (dropEvent s).events := by
      rw [nextEvent_cons_dropEvent, if_pos hl]
      exact hfree s.freeRounds
    rcases List.mem_cons.mp hpending with hnext | hlater
    · exact eventuallyMoves_of_nextEvent hnext.symm
    · exact eventuallyMoves_of_step fun t hstep => eventuallyMoves_of_listed (step_events hstep ▸ hlater)
  | cons ev evs ih => exact eventuallyMoves_of_step fun t hstep => ih t (step_events_of_listed hl hstep)

/-- Settles O35: each unit's move by its half of the invariant, and the moves to come by the free rounds. -/
theorem aUnitAlwaysHasANextState : Obligations.AUnitAlwaysHasANextState := by
  refine ⟨fun s evs ⟨hencoder, hdecoder⟩ hev => ?next, fun s => ⟨?encoder, ?decoder⟩⟩
  case next =>
    rcases hev with hev | hev
    · obtain ⟨t, hstep, hfaults⟩ := exists_next_of_encoder_move hencoder hev
      exact ⟨t, hstep, hfaults, step_events_of_listed hev hstep⟩
    · obtain ⟨t, hstep, hfaults⟩ := exists_next_of_decoder_move hdecoder hev
      exact ⟨t, hstep, hfaults, step_events_of_listed hev hstep⟩
  case encoder => exact eventuallyMoves_of_freeEvents (fun n => (unit_moves_in_freeEvents n).1) s
  case decoder => exact eventuallyMoves_of_freeEvents (fun n => (unit_moves_in_freeEvents n).2) s

/-! ### An attempt ends -/

/-- The most moves an attempt still takes with a budget of n reads: the reads left, the guard delay, and a read for each
bit not yet collected (R223). -/
def movesLeft (n : Nat) (d : DecState) : Nat :=
  match d.st with
  | .idle => 0
  | .await => n - d.tries + 25
  | .synced => 25
  | .read => 24 - d.n
  | .done => 0

theorem movesLeft_await {n : Nat} {d : DecState} (hst : d.st = .await) : movesLeft n d = n - d.tries + 25 := by
  simp [movesLeft, hst]

theorem movesLeft_synced {n : Nat} {d : DecState} (hst : d.st = .synced) : movesLeft n d = 25 := by
  simp [movesLeft, hst]

theorem movesLeft_read {n : Nat} {d : DecState} (hst : d.st = .read) : movesLeft n d = 24 - d.n := by
  simp [movesLeft, hst]

theorem movesLeft_done {n : Nat} {d : DecState} (hst : d.st = .done) : movesLeft n d = 0 := by
  simp [movesLeft, hst]

/-- An attempt owes no more moves than a fresh one (R223). -/
theorem movesLeft_le (n : Nat) (d : DecState) : movesLeft n d ≤ n + 1 + 24 := by
  unfold movesLeft
  split <;> omega

/-- From s to t an attempt comes nearer to its end. -/
structure AttemptAdvances (n : Nat) (s t : State) : Prop where
  attempt : t.dec.st ≠ .idle
  fewer : movesLeft n t.dec < movesLeft n s.dec

theorem attemptAdvances_of_done {n : Nat} {s t : State} (hleft : 0 < movesLeft n s.dec) (ht : t.dec.st = .done) :
    AttemptAdvances n s t :=
  ⟨by simp [ht], by rwa [movesLeft_done ht]⟩

/-- A read of AwaitStart that leaves the decoder there is one of the reads left. -/
theorem attemptAdvances_of_await {n : Nat} {s t : State} (hst : s.dec.st = .await) (hleft : s.dec.tries < n)
    (ht : t.dec.st = .await) (htries : t.dec.tries = s.dec.tries + 1) : AttemptAdvances n s t :=
  ⟨by simp [ht], by rw [movesLeft_await hst, movesLeft_await ht]; omega⟩

/-- A read of AwaitStart synchronises, ends the attempt, or uses up one of the reads left (R174). -/
theorem attemptAdvances_awaitRead {n : Nat} {s : State} (hst : s.dec.st = .await) (hleft : s.dec.tries < n) :
    AttemptAdvances n s (awaitRead s) := by
  have hnow := movesLeft_await (n := n) hst
  by_cases hin : classifyAwait s.cfg.dec.err (nextAnswer s) = .inBand
  · have hdec := awaitRead_inBand_dec hin
    split at hdec
    · have hsynced : (awaitRead s).dec.st = .synced := by rw [hdec]
      exact ⟨by simp [hsynced], by rw [hnow, movesLeft_synced hsynced]; omega⟩
    · exact attemptAdvances_of_await hst hleft (by rw [hdec]; exact hst) (by rw [hdec])
  · by_cases hpolicy : s.cfg.dec.awaitTimeoutEnds = false ∨ nextAnswer s ≠ none
    · have hdec := awaitRead_outsideBand_dec hin hpolicy
      exact attemptAdvances_of_await hst hleft (by rw [hdec]; exact hst) (by rw [hdec])
    · obtain ⟨hends, hnone⟩ : s.cfg.dec.awaitTimeoutEnds = true ∧ nextAnswer s = none := by simpa using hpolicy
      exact attemptAdvances_of_done (by omega) (awaitRead_timeoutEnds_dec hnone hends).1

/-- A read of ReadingBits collects one of the bits left, or ends the attempt (R176, R177, R180). -/
theorem attemptAdvances_readBitStep {n : Nat} {s : State} (hst : s.dec.st = .read) (hn : s.dec.n < 24) :
    AttemptAdvances n s (readBitStep s) := by
  have hnow := movesLeft_read (n := n) hst
  cases hbit : readBit? s.cfg.dec.err (nextAnswer s) with
  | none => exact attemptAdvances_of_done (by omega) (readBitStep_noBit_dec hbit).1
  | some b =>
    have hdec := readBitStep_bit_dec hbit
    split at hdec
    · exact attemptAdvances_of_done (by omega) (by rw [hdec])
    · have hread : (readBitStep s).dec.st = .read := by rw [hdec]; exact hst
      have hcount : (readBitStep s).dec.n = s.dec.n + 1 := by rw [hdec]
      exact ⟨by simp [hread], by rw [hnow, movesLeft_read hread, hcount]; omega⟩

/-- A move of a good decoder in an attempt brings it nearer to its end. -/
theorem attemptAdvances_decoderMove {n : Nat} {s : State} (h : DecInv s) (hbudget : s.cfg.dec.startTries = .reads n)
    (hidle : s.dec.st ≠ .idle) (hdone : s.dec.st ≠ .done) : AttemptAdvances n s (decoderMove s) := by
  rcases decoderMove_cases (triesOk_of_decInv h) with ⟨hst | hst, -⟩ | ⟨hst, -, ht⟩ | ⟨hst, hguard, ht⟩ | ⟨hst, ht⟩ |
    ⟨hst, ht⟩
  · exact absurd hst hidle
  · exact absurd hst hdone
  · exact ht ▸ attemptAdvances_of_done (by rw [movesLeft_await hst]; omega) rfl
  · exact ht ▸ attemptAdvances_awaitRead hst (compareBudget_lt.mp hguard n hbudget)
  · have hread : (guardWait s).dec.st = .read := rfl
    have hn : (guardWait s).dec.n = 0 := rfl
    exact ht ▸ ⟨by simp [hread], by rw [movesLeft_synced hst, movesLeft_read hread, hn]; omega⟩
  · obtain ⟨-, -, hn⟩ := (decStateOk_read hst).mp (decInv_state h)
    exact ht ▸ attemptAdvances_readBitStep hst hn

/-- An attempt is over within the moves it still takes at most. -/
theorem exists_decoderRun_done {n k : Nat} {s : State} (h : DecInv s) (hbudget : s.cfg.dec.startTries = .reads n)
    (hidle : s.dec.st ≠ .idle) (hk : movesLeft n s.dec ≤ k) :
    ∃ m t, m ≤ k ∧ DecoderRun m s t ∧ t.dec.st = .done := by
  induction k generalizing s with
  | zero =>
    refine ⟨0, s, le_rfl, .refl s, ?_⟩
    by_contra hdone
    have hfewer := (attemptAdvances_decoderMove h hbudget hidle hdone).fewer
    omega
  | succ k ih =>
    by_cases hdone : s.dec.st = .done
    · exact ⟨0, s, Nat.zero_le _, .refl s, hdone⟩
    · obtain ⟨hattempt, hfewer⟩ := attemptAdvances_decoderMove h hbudget hidle hdone
      have htries := triesOk_of_decInv h
      obtain ⟨m, t, hm, hrun, ht⟩ := ih (decInv_decoderMove h)
        (by rw [(decoderWork_decoderMove htries).cfg, hbudget]) hattempt (by omega)
      exact ⟨1 + m, t, by omega, (decoderRun_decoderMove htries).trans hrun, ht⟩

/-- Settles O48: every move of a busy decoder brings the attempt nearer to its end, whatever it reads. -/
theorem anAttemptAlwaysEnds : Obligations.AnAttemptAlwaysEnds := by
  intro s n h hbusy hbudget
  have hidle : s.dec.st ≠ .idle := fun hst => by
    rw [decBusy_of_rest (.inl hst)] at hbusy
    cases hbusy
  obtain ⟨m, t, hm, hrun, hdone⟩ := exists_decoderRun_done h hbudget hidle (movesLeft_le n s.dec)
  exact ⟨m, { t with events := s.events }, hm, hrun s.events, hdone⟩

end Sys2Proof.Machine
end

section
/-! PROOFS. The reset and hazards family (70_reset_and_hazards.md), RESET: what it writes (R250), and that it leaves a good
state whatever was there before. -/

namespace Sys2Proof.Machine

/-- RESET is taken in every state (R250, R251). -/
theorem exec_reset (s : State) : exec .reset s = .next (resetRegisters s) := rfl

/-- Settles O19: the registers that RESET writes are those of a run's first state. -/
theorem resetWritesEveryRegister : Obligations.ResetWritesEveryRegister := by
  refine ⟨exec_reset, fun s t h => ?_⟩
  rw [exec_reset, Host.Outcome.next.injEq] at h
  rw [← h]
  exact ⟨rfl, rfl⟩

/-- A decoder with the registers of a reset is good: it is idle, with every counter at 0. -/
theorem decInv_of_reset {s : State} (h : s.dec = DecState.reset) : DecInv s := by
  unfold DecInv TriesOk decBusy
  rw [h]
  exact ⟨Nat.zero_le _, compareBudget_zero_ne_gt _, Nat.zero_le _, Nat.one_pos, rfl, trivial, nofun⟩

/-- A block with the registers of a reset is good, in every configuration. -/
theorem inv_of_reset {s : State} (henc : s.enc = EncState.reset) (hdec : s.dec = DecState.reset) : Inv s :=
  ⟨(encInv_congr (t := s) (s := quietEncoder s) rfl henc).mpr (encInv_quietEncoder s), decInv_of_reset hdec⟩

/-- Settles O33: the first state of a run has the registers of a reset. -/
theorem resetStateIsGood : Obligations.ResetStateIsGood :=
  ⟨inv_of_reset rfl rfl, fun _ => inv_of_reset rfl rfl⟩

end Sys2Proof.Machine
end

section
/-! PROOFS. The reset and hazards family (70_reset_and_hazards.md), the duration of a telegram (R265, R266): the bursts of a
frame last as long as its nominal readings, and the ones of a command and its inverse are eight together. -/

namespace Sys2Proof.Machine

/-! ### How long a frame's readings are -/

/-- How long the pulses that a list of readings measures are, together: the ON time of the frame bits
(`onTime_bitSegs`). -/
def pulseTime (rs : List Reading) : Nat := (rs.map (·.getD 0)).sum

theorem pulseTime_append (rs qs : List Reading) : pulseTime (rs ++ qs) = pulseTime rs + pulseTime qs := by
  simp [pulseTime]

theorem pulseTime_bitReading_cons (e : Nat) (b : Bool) (rs : List Reading) :
    pulseTime (bitReading e b :: rs) = bitWidth e b + pulseTime rs := by
  simp [pulseTime, bitReading]

/-- A bit's reading is two base units, and two more for a one (R87). -/
theorem pulseTime_bitReadings {α : Type} (e : Nat) (f : α → Bool) (l : List α) :
    pulseTime (l.map fun x => bitReading e (f x)) = 2 * e * (l.length + (l.filter f).length) := by
  induction l with
  | nil => rfl
  | cons x l ih =>
    rw [List.map_cons, pulseTime_bitReading_cons, ih, List.length_cons]
    cases hx : f x <;> simp [bitWidth, bit0Width, bit1Width, hx] <;> ring

/-- The readings of a byte, by its number of ones. -/
theorem pulseTime_byteReadings (e : Nat) (b : Byte) : pulseTime (byteReadings e b) = 2 * e * (8 + popcount b) := by
  have hdown : (List.range 8).map (7 - ·) = (List.range 8).reverse := by decide
  have hread : byteReadings e b = (List.range 8).reverse.map fun j => bitReading e (b.getLsbD j) := by
    rw [← hdown, List.map_map]
    rfl
  rw [hread, pulseTime_bitReadings, List.length_reverse, List.length_range, List.filter_reverse, List.length_reverse,
    popcount]

/-- Whatever the command, it and its inverse hold eight ones together (R116): a frame's readings depend on the address
alone. -/
theorem pulseTime_frameReadings (e : Nat) (addr c : Byte) :
    pulseTime (frameReadings e (frameWordOf addr c)) = 2 * e * (32 + popcount addr) := by
  have hones := popcount_add_popcount_complement c
  rw [frameWordOf, frameReadings_packFrame]
  simp only [pulseTime_append, pulseTime_byteReadings, ← Nat.mul_add]
  congr 1
  omega

/-! ### How long the parts of a telegram are -/

@[simp] theorem duration_pulse (b d : Nat) : duration (pulse b d) = b + d := rfl

@[simp] theorem onTime_pulse (b d : Nat) : onTime (pulse b d) = b := rfl

/-- The burst of a frame bit is as long as its reading, and its space is as long again (R87). -/
theorem time_bitSegs (k : EncConfig) (fw : Frame24) :
    onTime (bitSegs k fw) = pulseTime (frameReadings k.err fw) ∧
    duration (bitSegs k fw) = 2 * pulseTime (frameReadings k.err fw) := by
  rw [bitSegs, frameReadings]
  induction List.range 24 with
  | nil => exact ⟨rfl, rfl⟩
  | cons j l ih =>
    obtain ⟨hon, hduration⟩ := ih
    rw [List.map_cons, pulseTime_bitReading_cons, List.flatMap_cons, onTime_append, duration_append, hon, hduration,
      symSegs_bitSym, onTime_pulse, duration_pulse]
    exact ⟨rfl, by ring⟩

theorem duration_preSegs {k : EncConfig} (htec : k.tec ≤ 2 * k.err) :
    duration (preSegs k) = k.p * (4 * k.err - k.tec) := by
  rw [preSegs, duration_repeated, symSegs, duration_pulse, preSpaceWidth_eq htec, bit0Width]
  congr 1
  omega

theorem onTime_preSegs (k : EncConfig) : onTime (preSegs k) = k.p * (2 * k.err) := onTime_repeated k.p _

theorem duration_startSegs (k : EncConfig) : duration (startSegs k) = k.s * (6 * k.err + 6 * k.err) :=
  duration_repeated k.s _

theorem onTime_startSegs (k : EncConfig) : onTime (startSegs k) = k.s * (6 * k.err) := onTime_repeated k.s _

/-- One repetition, its stop gap included. -/
theorem duration_repSegs (k : EncConfig) (c : Byte) :
    duration (repSegs k c) = 12 * k.err * k.s + 136 * k.err + 4 * k.err * popcount k.addr := by
  obtain ⟨-, hbits⟩ := time_bitSegs k (frameWordOf k.addr c)
  have hstop : duration (symSegs k .stop) = 8 * k.err := rfl
  rw [repSegs, duration_append, duration_append, duration_startSegs, hbits, pulseTime_frameReadings, hstop]
  ring

/-- In the stop gap of a repetition the carrier is off. -/
theorem onTime_repSegs (k : EncConfig) (c : Byte) :
    onTime (repSegs k c) = 6 * k.err * k.s + 64 * k.err + 2 * k.err * popcount k.addr := by
  obtain ⟨hbits, -⟩ := time_bitSegs k (frameWordOf k.addr c)
  have hstop : onTime (symSegs k .stop) = 0 := rfl
  rw [repSegs, onTime_append, onTime_append, onTime_startSegs, hbits, pulseTime_frameReadings, hstop]
  ring

/-- Settles O45: the preamble, and R repetitions of one length. -/
theorem telegramDuration : Obligations.TelegramDuration := by
  intro k c hwf
  obtain ⟨-, -, -, htec⟩ := wellFormedEnc_iff.mp hwf
  constructor
  · rw [telegram, duration_append, duration_preSegs (by omega), duration_repeated, duration_repSegs]
  · rw [telegram, onTime_append, onTime_preSegs, onTime_repeated, onTime_repSegs, Nat.mul_comm k.p]

end Sys2Proof.Machine
end

section
/-! PROOFS. The reset and hazards family (70_reset_and_hazards.md), mismatches (R255): where 6*ERR_ENC = 5*ERR_DEC, start
pulses left over are read as ones (R94), and a frame that was never sent can pass its check. -/

namespace Sys2Proof.Machine

/-- The frame word that is read where m ones come before the bits of fw (`frameBit_lateFrame`). -/
def lateFrame (m : Nat) (fw : Frame24) : Frame24 := ~~~(~~~fw >>> m)

theorem frameBit_lateFrame (m : Nat) (fw : Frame24) {j : Nat} (hj : j < 24) :
    frameBit (lateFrame m fw) j = if j < m then true else frameBit fw (j - m) := by
  rw [frameBit_eq hj, lateFrame, BitVec.getLsbD_not, BitVec.getLsbD_ushiftRight, BitVec.getLsbD_not]
  split
  · next hlate => simp [show ¬ m + (23 - j) < 24 by omega, show 23 - j < 24 by omega]
  · next hframe =>
    rw [frameBit_eq (by omega), show m + (23 - j) = 23 - (j - m) by omega]
    simp [show 23 - j < 24 by omega, show 23 - (j - m) < 24 by omega]

/-- What is read where m start pulses come before the bits of fw (`startReadings_append_frameReadings`). -/
def lateReading (e m : Nat) (fw : Frame24) (j : Nat) : Reading :=
  if j < m then some (startWidth e) else bitReading e (frameBit fw (j - m))

/-- m start readings and the readings of a frame: 24 readings, and the last m bits of the frame. -/
theorem startReadings_append_frameReadings (e m : Nat) (fw : Frame24) :
    ∃ rs, startReadings e m ++ frameReadings e fw = (List.range 24).map (lateReading e m fw) ++ rs := by
  have hall : startReadings e m ++ frameReadings e fw = (List.range (m + 24)).map (lateReading e m fw) := by
    rw [List.range_add, List.map_append, List.map_map, frameReadings]
    congr 1
    · refine (List.eq_replicate_iff.mpr ⟨by simp, fun r hr => ?_⟩).symm
      obtain ⟨j, hj, rfl⟩ := List.mem_map.mp hr
      exact if_pos (List.mem_range.mp hj)
    · refine List.map_congr_left fun j _ => ?_
      simp [lateReading]
  rw [hall, Nat.add_comm, List.range_add, List.map_append]
  exact ⟨_, rfl⟩

/-- R94's overlap: a burst of five base units of the decoder is in the start band and a one too. -/
theorem readBit?_startReading_of_overlap {ee ed : Nat} (hed : 1 ≤ ed) (h : 6 * ee = 5 * ed) :
    readBit? ed (some (startWidth ee)) = some true := by
  rw [readBit?_eq_some, startWidth, h]
  exact classifyRead_some_one.mpr ⟨by omega, le_rfl⟩

/-- In R94's overlap the m start pulses that the decoder does not want are the first m bits of the frame it reports. -/
theorem decodeAttempt_overlap {ke : EncConfig} {kd : DecConfig} {m : Nat} (c : Byte) (n : Nat)
    (hke : wellFormedEnc ke = true) (hkd : wellFormedDec kd = true) (hunits : 6 * ke.err = 5 * kd.err)
    (hs : ke.s = kd.s + m) (hbudget : budgetAtLeast (ke.p + kd.s) kd.startTries) :
    decodeAttempt kd (idealReadings (telegram ke c) n) =
      .result (frameResult (lateFrame m (frameWordOf ke.addr c))) (ke.p + kd.s + 24) := by
  obtain ⟨-, -, hr, -⟩ := wellFormedEnc_iff.mp hke
  obtain ⟨hed, -⟩ := wellFormedDec_iff.mp hkd
  have hinter : interoperable ke.err kd.err := ⟨by omega, by omega⟩
  obtain ⟨rs, hrs⟩ := idealReadings_telegram_eq c n hr
  obtain ⟨qs, hqs⟩ := startReadings_append_frameReadings ke.err m (frameWordOf ke.addr c)
  have hreadings : idealReadings (telegram ke c) n = preReadings ke.err ke.p ++ (startReadings ke.err kd.s ++
      ((List.range 24).map (lateReading ke.err m (frameWordOf ke.addr c)) ++ (qs ++ rs))) := by
    rw [hrs, hs, ← List.append_assoc _ qs, ← hqs]
    simp only [startReadings, frameReadings, List.replicate_add, List.append_assoc]
  rw [hreadings, decodeAttempt_frame _ hkd (by simpa using hbudget) (outsideBand_preReadings (by omega))
    (.inr (none_notMem_preReadings _ _)) (length_startReadings _ _) (inBand_startReadings hinter) fun j hj => ?bits,
    length_preReadings]
  case bits =>
    rw [frameBit_lateFrame m _ hj, lateReading]
    split
    · exact readBit?_startReading_of_overlap hed hunits
    · exact readBit?_bitReading hed hinter _

/-- Refutes O59: four start pulses at base unit 100 to a decoder that wants one at base unit 120. The three left over come
before the address 0x00, the command 0x07 and its inverse 0xF8, and 0xE0, 0x00, 0xFF passes the check. -/
theorem not_noMismatchYieldsAWrongValidFrame : ¬ Obligations.NoMismatchYieldsAWrongValidFrame := by
  intro h
  have hbudget : budgetAtLeast (32 + 1) exampleBuild.dec.startTries := show 32 + 1 ≤ 64 by decide
  have hread : decodeAttempt { exampleBuild.dec with err := 120, s := 1 }
      (idealReadings (telegram { exampleBuild.enc with err := 100, s := 4, addr := 0x00#8 } 0x07#8) 0) =
        .result (.frame 0xE0#8 0x00#8 0xFF#8 true) 57 :=
    (decodeAttempt_overlap (m := 3) 0x07#8 0 (by decide) (by decide) rfl rfl hbudget).trans (by decide)
  obtain ⟨haddr, -⟩ := h _ _ _ _ _ _ _ _ (by decide) (by decide) hread
  exact absurd haddr (by decide)

end Sys2Proof.Machine
end
